-- ==== Sys2Proof/Word.lean ====
section
/-! DEFINITION. The block's words: the 163-bit field element (R10, R20), the 32-bit port and command word
(R9, R55, R80), the affine point (R22), and the two enumerations of STATUS (R28). -/

namespace Sys2Proof

/-- A field element: 163 bits, bit `i` the coefficient of `x^i` (R10, R20). Read as a polynomial over
GF(2), or, through `toNat`, as the unsigned integer `int(v)`. -/
abbrev FieldElement := BitVec 163

/-- A 32-bit word of the host port, and a command word (R55, R80). -/
abbrev Word := BitVec 32

/-- The 4-bit operand value of a command word, 0 to 15 (R83): a field register, the even index of a
point register (R84), or the constant index of `FLDC` (R85). -/
abbrev Operand := Fin 16

/-- A point: a pair of field elements, in affine coordinates (R22). -/
structure Point where
  x : FieldElement
  y : FieldElement
  deriving DecidableEq, Repr

/-- The identity is the pair `(0, 0)`; there is no infinity flag (R24, R160). -/
def identity : Point := ⟨0, 0⟩

/-- The `FCAUSE` codes the block produces; 3 to 15 are never produced (R28, R232, item S1 of
93_implementation_defined.md). -/
inductive FaultCause where
  /-- 0: `FAULT = 0`. -/
  | none
  /-- 1: the command word failed the decode check (R233). -/
  | illegalCmd
  /-- 2: a point addition met the uncovered case (R234). -/
  | groupLaw
  deriving DecidableEq, Repr

/-- The `RESULT` codes the block produces (R28, R235, item S1 of 93_implementation_defined.md). -/
inductive ResultCode where
  /-- 0: the command completed and wrote its destination, if it has one. -/
  | ok
  /-- 1: `FINV` of zero. -/
  | noInverse
  /-- 2: the quadratic has no root. -/
  | noRoot
  deriving DecidableEq, Repr

/-- The four bits of `FCAUSE` in `STATUS` (R28). -/
def FaultCause.code : FaultCause → BitVec 4
  | .none => 0
  | .illegalCmd => 1
  | .groupLaw => 2

/-- The four bits of `RESULT` in `STATUS` (R28). -/
def ResultCode.code : ResultCode → BitVec 4
  | .ok => 0
  | .noInverse => 1
  | .noRoot => 2

end Sys2Proof
end

