-- ==== Sys2Proof/Machine/FieldArith.lean ====
section
/-! DEFINITION. Arithmetic of GF(2^163) as pure functions on 163-bit vectors: the `fe_...` rules of
40_field_arith.md. Each loop stands as the spec writes it, with the spec's bound as its fuel. -/

namespace Sys2Proof.Machine

/-- `x^7 + x^6 + x^3 + 1`: the reduction polynomial below `x^163` (R7, R104). -/
def fLow : FieldElement := 0xC9

/-- `F_POLY = 2^163 + 0xC9`, the reduction polynomial as an integer of 164 bits (R7). -/
def fPoly : Nat := 2 ^ 163 + 0xC9

/-- Field addition is bitwise exclusive or (R13, R105). -/
def feAdd (a b : FieldElement) : FieldElement := a ^^^ b

/-- `a` times `x`: shift left by one and, if the shifted value has bit 163, reduce (R104). -/
def feDouble (a : FieldElement) : FieldElement := if a.msb then (a <<< 1) ^^^ fLow else a <<< 1

/-- The loop of R104 with `n` passes to go: `b`'s lowest bit is the next one to process. -/
def feMulLoop : (n : Nat) → (acc a b : FieldElement) → FieldElement
  | 0, acc, _, _ => acc
  | n + 1, acc, a, b => feMulLoop n (if b.getLsbD 0 then feAdd acc a else acc) (feDouble a) (b >>> 1)

/-- `a ⊗ b = fe_mul(a, b)`: the carry-less product modulo the reduction polynomial (R104). -/
def feMul (a b : FieldElement) : FieldElement := feMulLoop 163 0 a b

/-- `a² = a ⊗ a` (R13). -/
def feSquare (a : FieldElement) : FieldElement := feMul a a

/-- The loop of R107 with at most `n` passes to go. -/
def fePowLoop : (n : Nat) → (r a : FieldElement) → (k : Nat) → FieldElement
  | 0, r, _, _ => r
  | n + 1, r, a, k =>
    if k = 0 then r else fePowLoop n (if k % 2 = 1 then feMul r a else r) (feSquare a) (k / 2)

/-- `a^k = fe_pow(a, k)` (R107): one pass for each bit of `k` up to its highest set bit. -/
def fePow (a : FieldElement) (k : Nat) : FieldElement := fePowLoop (k.log2 + 1) 1 a k

/-- The loop of R110 with at most `n` passes to go, on polynomials as integers; `deg` of a nonzero
polynomial is the index of its highest set bit, `Nat.log2`. -/
def feInvLoop : (n u v g1 g2 : Nat) → Nat
  | 0, _, _, g1, _ => g1
  | n + 1, u, v, g1, g2 =>
    if u = 1 then g1
    else if u.log2 < v.log2 then
      feInvLoop n (v ^^^ (u <<< (v.log2 - u.log2))) u (g2 ^^^ (g1 <<< (v.log2 - u.log2))) g1
    else
      feInvLoop n (u ^^^ (v <<< (u.log2 - v.log2))) v (g1 ^^^ (g2 <<< (u.log2 - v.log2))) g2

/-- `a⁻¹ = fe_inv(a)`, defined for `a != 0` only (R110); every use is guarded (DEDUCED, safe: log
entry 13). At most 325 passes (R271). -/
def feInv (a : FieldElement) : FieldElement := BitVec.ofNat 163 (feInvLoop 325 a.toNat fPoly 1 0)

/-- The loop of R113 with `n` squarings to go. -/
def feTraceLoop : (n : Nat) → (s t : FieldElement) → FieldElement
  | 0, _, t => t
  | n + 1, s, t => feTraceLoop n (feSquare s) (feAdd t (feSquare s))

/-- `Tr(a) = fe_trace(a)`: 162 squarings (R113). -/
def feTrace (a : FieldElement) : FieldElement := feTraceLoop 162 a a

/-- The loop of R116 with `n` passes to go: square twice, add the original. -/
def feHalfTraceLoop (a : FieldElement) : (n : Nat) → (t : FieldElement) → FieldElement
  | 0, t => t
  | n + 1, t => feHalfTraceLoop a n (feAdd (feSquare (feSquare t)) a)

/-- `H(a) = fe_halftrace(a)`: 81 passes (R116). -/
def feHalfTrace (a : FieldElement) : FieldElement := feHalfTraceLoop a 81 a

end Sys2Proof.Machine
end

