-- ==== Sys2Proof/Syntax.lean ====
section
/-! DEFINITION. The seventeen commands (R87), one constructor per row of spec/opcode_table.json, and what
reaches the block from outside (R55, R260). -/

namespace Sys2Proof

/-- The commands of R87. An operand stands as the 4-bit value of its field: `d` the destination, `a` and
`b` the sources (R81, R82). A point operand is the even index `e` of the pair `(F[e], F[e+1])` (R84). -/
inductive Instr where
  /-- `NOP` (R101). -/
  | nop
  /-- `FMOV Fd, Fa` (R102). -/
  | fmov (d a : Operand)
  /-- `FLDC Fd, #c` (R103). -/
  | fldc (d c : Operand)
  /-- `FADD Fd, Fa, Fb` (R105). -/
  | fadd (d a b : Operand)
  /-- `FMUL Fd, Fa, Fb` (R106). -/
  | fmul (d a b : Operand)
  /-- `FPOW Fd, Fa, Fb`, `b` a scalar (R108). -/
  | fpow (d a b : Operand)
  /-- `FINV Fd, Fa` (R111). -/
  | finv (d a : Operand)
  /-- `FTR Fd, Fa` (R114). -/
  | ftr (d a : Operand)
  /-- `FHTR Fd, Fa` (R117). -/
  | fhtr (d a : Operand)
  /-- `FCMP Fa, Fb` (R120). -/
  | fcmp (a b : Operand)
  /-- `QSOLVE Fd, Fa, Fb` (R141). -/
  | qsolve (d a b : Operand)
  /-- `PFROMX Pd, Fa` (R143). -/
  | pfromx (d a : Operand)
  /-- `PADD Pd, Pa, Pb` (R164). -/
  | padd (d a b : Operand)
  /-- `PDBL Pd, Pa` (R165). -/
  | pdbl (d a : Operand)
  /-- `PNEG Pd, Pa` (R166). -/
  | pneg (d a : Operand)
  /-- `PCMP Pa, Pb` (R167). -/
  | pcmp (a b : Operand)
  /-- `SMUL Pd, Pa, Fb`, `b` a scalar (R191). -/
  | smul (d a b : Operand)
  deriving DecidableEq, Repr

/-- What reaches the block from outside: the two port transactions (R55), each with its byte address and
the width in bits the bus expresses (R62), and the hard reset input (R260). -/
inductive HostEvent where
  /-- `PortRead(addr)`, of an access `bits` wide. -/
  | portRead (addr bits : Nat)
  /-- `PortWrite(addr, v)`, of an access `bits` wide. -/
  | portWrite (addr bits : Nat) (v : Word)
  /-- The reset input of the block is asserted (R260). -/
  | hardReset
  deriving DecidableEq, Repr

/-- How the block answers a transaction on its port. -/
inductive BusResponse where
  /-- A read returned this word. -/
  | data (w : Word)
  /-- A write was accepted. -/
  | ack
  /-- The bus's error response to a misaligned access or one that is not 32 bits wide (R62, R241). -/
  | busError
  deriving DecidableEq, Repr

end Sys2Proof
end

