-- ==== Sys2Proof/WellFormed.lean ====
section
/-! DEFINITION. Which operand values a command admits (R84, R85): the two checks of R90 that are about an
operand's value. The other checks of R90 are about bits that `Instr` does not have; Decode.lean makes them. -/

namespace Sys2Proof

/-- A point-register operand is an even value (R84). -/
def Operand.isEven (e : Operand) : Bool := e.val % 2 == 0

/-- A constant index of `FLDC` is 0 to 6 (R85). -/
def Operand.isConstIndex (c : Operand) : Bool := c.val ≤ 6

/-- The operands of `i` are values its format admits. A field-register operand and a scalar operand admit
all sixteen (R83, R86). -/
def Instr.wellFormed : Instr → Bool
  | .nop => true
  | .fmov _ _ => true
  | .fldc _ c => c.isConstIndex
  | .fadd _ _ _ => true
  | .fmul _ _ _ => true
  | .fpow _ _ _ => true
  | .finv _ _ => true
  | .ftr _ _ => true
  | .fhtr _ _ => true
  | .fcmp _ _ => true
  | .qsolve _ _ _ => true
  | .pfromx d _ => d.isEven
  | .padd d a b => d.isEven && a.isEven && b.isEven
  | .pdbl d a => d.isEven && a.isEven
  | .pneg d a => d.isEven && a.isEven
  | .pcmp a b => a.isEven && b.isEven
  | .smul d a _ => d.isEven && a.isEven

end Sys2Proof
end

