-- ==== Sys2Proof/Decode.lean ====
section
/-! DEFINITION. Command words: their fields (R81), formats (R82), opcodes (R87), the decode check (R90), the
decoder, total and rejecting by name, and the encoder. -/

namespace Sys2Proof

/-- How a format reads the fields `d`, `a`, `b` (R82). -/
inductive Format where
  | Z | FDA | FDC | FDAB | FAB | PDF | PDAB | PDA | PAB | PDAS
  deriving DecidableEq, Repr

/-- The opcodes of R87, by mnemonic. -/
inductive Opcode where
  | NOP | FMOV | FLDC | FADD | FMUL | FPOW | FINV | FTR | FHTR | FCMP
  | QSOLVE | PFROMX | PADD | PDBL | PNEG | PCMP | SMUL
  deriving DecidableEq, Repr

/-- Why a command word is illegal: the five checks of R90, in its order. -/
inductive Illegal where
  /-- Check 1: `op` is reserved (R88). -/
  | reservedOpcode
  /-- Check 2: `z != 0` (R89). -/
  | nonzeroZ
  /-- Check 3: a field the format does not use is nonzero (R89). -/
  | unusedFieldNonzero
  /-- Check 4: a point-register field holds an odd value (R84). -/
  | oddPointRegister
  /-- Check 5: the constant index of `FLDC` is above 6 (R85). -/
  | reservedConstant
  deriving DecidableEq, Repr

/-- The `op` value of each mnemonic (R87). -/
def Opcode.code : Opcode → BitVec 8
  | .NOP => 0x00
  | .FMOV => 0x01
  | .FLDC => 0x02
  | .FADD => 0x10
  | .FMUL => 0x11
  | .FPOW => 0x12
  | .FINV => 0x13
  | .FTR => 0x14
  | .FHTR => 0x15
  | .FCMP => 0x16
  | .QSOLVE => 0x20
  | .PFROMX => 0x21
  | .PADD => 0x30
  | .PDBL => 0x31
  | .PNEG => 0x32
  | .PCMP => 0x33
  | .SMUL => 0x40

/-- The opcode an `op` value names; every other value is reserved (R87, R88). -/
def opcodeOf (op : BitVec 8) : Option Opcode :=
  match op.toNat with
  | 0x00 => some .NOP
  | 0x01 => some .FMOV
  | 0x02 => some .FLDC
  | 0x10 => some .FADD
  | 0x11 => some .FMUL
  | 0x12 => some .FPOW
  | 0x13 => some .FINV
  | 0x14 => some .FTR
  | 0x15 => some .FHTR
  | 0x16 => some .FCMP
  | 0x20 => some .QSOLVE
  | 0x21 => some .PFROMX
  | 0x30 => some .PADD
  | 0x31 => some .PDBL
  | 0x32 => some .PNEG
  | 0x33 => some .PCMP
  | 0x40 => some .SMUL
  | _ => none

/-- The format of each command (R82, R87). -/
def Opcode.format : Opcode → Format
  | .NOP => .Z
  | .FMOV => .FDA
  | .FLDC => .FDC
  | .FADD => .FDAB
  | .FMUL => .FDAB
  | .FPOW => .FDAB
  | .FINV => .FDA
  | .FTR => .FDA
  | .FHTR => .FDA
  | .FCMP => .FAB
  | .QSOLVE => .FDAB
  | .PFROMX => .PDF
  | .PADD => .PDAB
  | .PDBL => .PDA
  | .PNEG => .PDA
  | .PCMP => .PAB
  | .SMUL => .PDAS

/-- Field `op`, bits 31:24 (R81). -/
def opField (w : Word) : BitVec 8 := w.extractLsb' 24 8

/-- The 4-bit field whose lowest bit is `lo` (R81). -/
def operandField (lo : Nat) (w : Word) : Operand := (w.extractLsb' lo 4).toFin

/-- Field `d`, bits 23:20 (R81). -/
def dField (w : Word) : Operand := operandField 20 w

/-- Field `a`, bits 19:16 (R81). -/
def aField (w : Word) : Operand := operandField 16 w

/-- Field `b`, bits 15:12 (R81). -/
def bField (w : Word) : Operand := operandField 12 w

/-- Field `z`, bits 11:0 (R81). -/
def zField (w : Word) : BitVec 12 := w.extractLsb' 0 12

/-- A field the format does not use is nonzero (R82, R89). -/
def unusedNonzero (f : Format) (d a b : Operand) : Bool :=
  match f with
  | .Z => d != 0 || a != 0 || b != 0
  | .FDA | .FDC | .PDF | .PDA => b != 0
  | .FAB | .PAB => d != 0
  | .FDAB | .PDAB | .PDAS => false

/-- A field that names a point register holds an odd value (R82, R84). -/
def oddPoint (f : Format) (d a b : Operand) : Bool :=
  match f with
  | .PDF => !d.isEven
  | .PDAB => !d.isEven || !a.isEven || !b.isEven
  | .PDA | .PDAS => !d.isEven || !a.isEven
  | .PAB => !a.isEven || !b.isEven
  | .Z | .FDA | .FDC | .FDAB | .FAB => false

/-- The command an opcode and its three fields name (R82, R87). -/
def Opcode.command (o : Opcode) (d a b : Operand) : Instr :=
  match o with
  | .NOP => .nop
  | .FMOV => .fmov d a
  | .FLDC => .fldc d a
  | .FADD => .fadd d a b
  | .FMUL => .fmul d a b
  | .FPOW => .fpow d a b
  | .FINV => .finv d a
  | .FTR => .ftr d a
  | .FHTR => .fhtr d a
  | .FCMP => .fcmp a b
  | .QSOLVE => .qsolve d a b
  | .PFROMX => .pfromx d a
  | .PADD => .padd d a b
  | .PDBL => .pdbl d a
  | .PNEG => .pneg d a
  | .PCMP => .pcmp a b
  | .SMUL => .smul d a b

/-- The decode check of R90, its five tests in its order; the command of a word that passes them. -/
def decode (w : Word) : Except Illegal Instr :=
  match opcodeOf (opField w) with
  | none => .error .reservedOpcode
  | some o =>
    if zField w ≠ 0 then .error .nonzeroZ
    else if unusedNonzero o.format (dField w) (aField w) (bField w) then .error .unusedFieldNonzero
    else if oddPoint o.format (dField w) (aField w) (bField w) then .error .oddPointRegister
    else if o = .FLDC ∧ ¬ (aField w).isConstIndex then .error .reservedConstant
    else .ok (o.command (dField w) (aField w) (bField w))

/-- The word with these fields, `w = op·2^24 + d·2^20 + a·2^16 + b·2^12 + z` with `z` zero (R81). -/
def packWord (op : BitVec 8) (d a b : Operand) : Word :=
  BitVec.ofNat 32 (2 ^ 24 * op.toNat + 2 ^ 20 * d.val + 2 ^ 16 * a.val + 2 ^ 12 * b.val)

/-- The opcode of a command (R87). -/
def Instr.opcode : Instr → Opcode
  | .nop => .NOP
  | .fmov _ _ => .FMOV
  | .fldc _ _ => .FLDC
  | .fadd _ _ _ => .FADD
  | .fmul _ _ _ => .FMUL
  | .fpow _ _ _ => .FPOW
  | .finv _ _ => .FINV
  | .ftr _ _ => .FTR
  | .fhtr _ _ => .FHTR
  | .fcmp _ _ => .FCMP
  | .qsolve _ _ _ => .QSOLVE
  | .pfromx _ _ => .PFROMX
  | .padd _ _ _ => .PADD
  | .pdbl _ _ => .PDBL
  | .pneg _ _ => .PNEG
  | .pcmp _ _ => .PCMP
  | .smul _ _ _ => .SMUL

/-- The command word of a command (R81, R82): fields its format does not use are zero. -/
def encode (i : Instr) : Word :=
  match i with
  | .nop => packWord i.opcode.code 0 0 0
  | .fmov d a => packWord i.opcode.code d a 0
  | .fldc d c => packWord i.opcode.code d c 0
  | .fadd d a b => packWord i.opcode.code d a b
  | .fmul d a b => packWord i.opcode.code d a b
  | .fpow d a b => packWord i.opcode.code d a b
  | .finv d a => packWord i.opcode.code d a 0
  | .ftr d a => packWord i.opcode.code d a 0
  | .fhtr d a => packWord i.opcode.code d a 0
  | .fcmp a b => packWord i.opcode.code 0 a b
  | .qsolve d a b => packWord i.opcode.code d a b
  | .pfromx d a => packWord i.opcode.code d a 0
  | .padd d a b => packWord i.opcode.code d a b
  | .pdbl d a => packWord i.opcode.code d a 0
  | .pneg d a => packWord i.opcode.code d a 0
  | .pcmp a b => packWord i.opcode.code 0 a b
  | .smul d a b => packWord i.opcode.code d a b

/-- The host's entry: the command the decoder reads from a row's bits; every bit above `nbits` is zero
(one 32-bit word, R80). -/
def decodeTableWord (nbits w : Nat) : Option Instr :=
  match decode (BitVec.ofNat 32 (w % 2 ^ nbits)) with
  | .ok i => some i
  | .error _ => none

end Sys2Proof
end

