-- ==== Sys2Proof/Config.lean ====
section
/-! DEFINITION. What the spec leaves open, as constants with no body: the domain parameters whose values
no source prints (R8, R34), and the unspecified contents of the field registers (R39, R261). -/

namespace Sys2Proof.Config

/-- Free value: `B_CONST`, the curve constant B (R8, OPEN). DESIGN CHOICE, safe: log entry 1. -/
opaque bConst : FieldElement

/-- Free value: `GX_CONST`, the base point's x-coordinate (R8, OPEN). DESIGN CHOICE, safe: log entry 1. -/
opaque gxConst : FieldElement

/-- Free value: `GY_CONST`, the base point's y-coordinate (R8, OPEN). DESIGN CHOICE, safe: log entry 1. -/
opaque gyConst : FieldElement

/-- Free value: `N_CONST`, the group order, taken to be below 2^163 (R8, item K2, OPEN). DESIGN CHOICE, safe: log
entry 1. -/
opaque nConst : FieldElement

/-- Free value: what field register `F[i]` holds at power-up, before anything wrote it (R38, R39,
item U1: "any value", never zero). DESIGN CHOICE, unsafe: log entry 2. -/
opaque powerUpField : (i : Nat) → FieldElement

/-- Free value: what field register `F[i]` holds after the `n`-th reset of a running block, which may
depend on all that the registers held before it, since reset is "neither promised to clear them nor to keep
them" (R261, item U2). DESIGN CHOICE, unsafe: log entry 3. -/
opaque resetField : (n i : Nat) → (old : Vector FieldElement 16) → FieldElement

end Sys2Proof.Config
end

