-- ==== Sys2Proof/Machine/State.lean ====
section
/-! DEFINITION. The machine's state, the reasons a step can stop, and the state after reset. -/

namespace Sys2Proof.Machine

/-- Why a step stops. The block's own faults (R231) are not here: they are states with `FAULT = 1`. -/
inductive Fault where
  /-- Raised by `hostAccess`: a port access at a byte address outside 0x000 to 0x3FF, which the block does
  not decode (R60, item A1 of 93_implementation_defined.md). Safe: the spec gives such an access no
  meaning, and the model stops where a platform goes on. DESIGN CHOICE, safe: log entry 7. -/
  | outsideWindow
  deriving DecidableEq, Repr

/-- Why a step has no meaning. -/
inductive Refusal where
  /-- Raised by an arm of `exec` for a command without a meaning. No arm is one. Safe: the model stops. -/
  | notModelled (mnemonic : String)
  deriving DecidableEq, Repr

/-- The block, and the model's view of its host. `CMD` and `CTRL` are write-only and hold nothing, `ID` is
constant, the point registers are the field registers seen in pairs (R22, R27, R36). -/
structure State where
  /-- `F0` to `F15` (R20). -/
  fregs : Vector FieldElement 16
  /-- `STATUS.FAULT`, bit 0 (R28). -/
  fault : Bool
  /-- `STATUS.FCAUSE`, bits 7:4 (R28). -/
  fcause : FaultCause
  /-- `STATUS.RESULT`, bits 11:8 (R28). -/
  result : ResultCode
  /-- `STATUS.EQ`, bit 16 (R28, R29). -/
  eq : Bool
  /-- `STATUS.LT`, bit 17 (R28, R29). -/
  lt : Bool
  /-- `FAULTCMD` (R30). -/
  faultCmd : Word
  /-- The model's own: what the host has yet to do to the block, first event first (R65). DESIGN CHOICE,
  safe: log entry 4. -/
  pending : List HostEvent
  /-- The model's own: the bus's answer to the latest transaction, none before the first. DESIGN
  CHOICE, safe: log entry 4. -/
  response : Option BusResponse
  /-- The model's own: how many resets a running block has had, the counter that picks the free values of
  the field registers after the next one. DESIGN CHOICE, unsafe: log entry 3. -/
  resets : Nat
  deriving DecidableEq, Repr

/-- What a step or a command answers. -/
abbrev Outcome := Host.Outcome State Fault Refusal

/-- The block after power-up (R38): `STATUS` and `FAULTCMD` zero, and in each field register the free value
of log entry 2 (DESIGN CHOICE, unsafe). The host has asked nothing of it yet. -/
def State.reset : State where
  fregs := Vector.ofFn fun i => Config.powerUpField i.val
  fault := false
  fcause := .none
  result := .ok
  eq := false
  lt := false
  faultCmd := 0
  pending := []
  response := none
  resets := 0

end Sys2Proof.Machine
end

