-- ==== Sys2Proof/Machine/Operands.lean ====
section
/-! DEFINITION. The operand forms of the commands (R82 to R86): field registers, point registers, scalars and
the constants of `FLDC`. Every read and write of a register by a command goes through here. -/

namespace Sys2Proof.Machine

/-- `F[i]` (R12, R83). -/
def readField (i : Operand) (s : State) : FieldElement := s.fregs[i]

/-- `F[i] <- v` (R12, R83). No register is hardwired (R21). -/
def writeField (i : Operand) (v : FieldElement) (s : State) : State := { s with fregs := s.fregs.set i v }

/-- The odd register next to the even register `e` of a pair (R22). -/
def pairY (e : Operand) : Operand := e + 1

/-- `P[e] = (F[e], F[e+1])` (R12, R22, R84). -/
def readPoint (e : Operand) (s : State) : Point := ⟨readField e s, readField (pairY e) s⟩

/-- `P[e] <- p` (R12, R22, R84). -/
def writePoint (e : Operand) (p : Point) (s : State) : State :=
  writeField (pairY e) p.y (writeField e p.x s)

/-- A scalar operand: `int(F[i])`, 0 to 2^163 - 1 (R23, R86). -/
def readScalar (i : Operand) (s : State) : Nat := (readField i s).toNat

/-- The constant table of R34; indices 7 to 15 are reserved. -/
def constant (c : Operand) : Option FieldElement :=
  match c.val with
  | 0 => some 0
  | 1 => some 1
  | 2 => some 1
  | 3 => some Config.bConst
  | 4 => some Config.gxConst
  | 5 => some Config.gyConst
  | 6 => some Config.nConst
  | _ => none

end Sys2Proof.Machine
end

