-- ==== Sys2Proof/Machine/Flags.lean ====
section
/-! DEFINITION. The two flags `EQ` and `LT` (R29), the comparisons that set them (R119, R120, R167), and the
`STATUS` word they stand in (R28). -/

namespace Sys2Proof.Machine

/-- The order of field elements: that of the unsigned integers they spell (R119). -/
def feLt (a b : FieldElement) : Bool := a.toNat < b.toNat

/-- Write both flags (R29). -/
def setFlags (eq lt : Bool) (s : State) : State := { s with eq := eq, lt := lt }

/-- The flags of `FCMP` (R120). -/
def compareFields (a b : FieldElement) (s : State) : State := setFlags (a == b) (feLt a b) s

/-- The flags of `PCMP`: equality of both coordinates, `LT` cleared (R167). -/
def comparePoints (p q : Point) (s : State) : State := setFlags (p.x == q.x && p.y == q.y) false s

/-- The `STATUS` word, reserved bits zero (R28): bits 31:18, 17, 16, 15:12, 11:8, 7:4, 3:1, 0. -/
def statusWord (s : State) : Word :=
  0#14 ++ BitVec.ofBool s.lt ++ BitVec.ofBool s.eq ++ 0#4 ++ s.result.code ++ s.fcause.code ++ 0#3
    ++ BitVec.ofBool s.fault

end Sys2Proof.Machine
end

