-- ==== Sys2Proof/Machine/Ops.lean ====
section
/-! DEFINITION. The shared operations: how a command ends (R15), fault entry (R231), reset, the only way out of
the faulted state (R261, R262), and the words of a field register on the port (R57, R59). -/

namespace Sys2Proof.Machine

/-- A command completes: `RESULT <- OK` (R15, R235). -/
def complete (s : State) : State := { s with result := .ok }

/-- A command completes with a degeneracy code, its destination unchanged (R15, R235). -/
def degenerate (r : ResultCode) (s : State) : State := { s with result := r }

/-- Fault entry, `raise Fault(cause)` by the command word `w` (R231): exactly these three fields. -/
def raiseFault (cause : FaultCause) (w : Word) (s : State) : State :=
  { s with fault := true, fcause := cause, faultCmd := w }

/-- Reset of a running block, hard or soft (R260, R261): there is no other return from a fault (R238). The
field registers become unspecified: the free values of log entry 3 (DESIGN CHOICE, unsafe). -/
def resetBlock (s : State) : State :=
  { s with
    fregs := Vector.ofFn fun i => Config.resetField s.resets i.val s.fregs
    fault := false
    fcause := .none
    result := .ok
    eq := false
    lt := false
    faultCmd := 0
    resets := s.resets + 1 }

/-- What a command does whose operands its format may not admit: `t` if it admits them; if not, the word is
illegal, faults and has no other effect (R90, R231). The decoder yields no such command. DEDUCED, safe: log entry 5. -/
def whenLegal (i : Instr) (s t : State) : State :=
  if i.wellFormed then t else raiseFault .illegalCmd (encode i) s

/-- Word `W_k` of a field register: bits 191-32k to 160-32k of the register extended to 192 bits (R57). -/
def regWord (v : FieldElement) (k : Fin 6) : Word := ((v.setWidth 192) >>> (160 - 32 * k.val)).setWidth 32

/-- The register bits `W_k` maps to, as a mask: 163 bits, so `W0` has three (R59). -/
def wordMask (k : Fin 6) : FieldElement := ((0xFFFFFFFF#192) <<< (160 - 32 * k.val)).setWidth 163

/-- `F[i]` after a write of `w` to `W_k`: exactly the bits `W_k` maps to are replaced, and bits 163 and above
are discarded (R54, R59). -/
def setRegWord (v : FieldElement) (k : Fin 6) (w : Word) : FieldElement :=
  (v &&& ~~~(wordMask k)) ||| ((w.setWidth 192) <<< (160 - 32 * k.val)).setWidth 163

end Sys2Proof.Machine
end

