-- ==== Sys2Proof/Machine/FieldCommands.lean ====
section
/-! DEFINITION. The meanings of the field commands (40_field_arith.md): `NOP`, `FMOV`, `FLDC`, `FADD`, `FMUL`,
`FPOW`, `FINV`, `FTR`, `FHTR`, `FCMP`. Each takes the state in which the command, already decoded, runs, and
reads its sources from that state before it writes (R21, R100). -/

namespace Sys2Proof.Machine

/-- `NOP` (R101). -/
def execNop (s : State) : Outcome := .next (complete s)

/-- `FMOV Fd, Fa` (R102). -/
def execFmov (d a : Operand) (s : State) : Outcome := .next (complete (writeField d (readField a s) s))

/-- `FLDC Fd, #c` (R103); a reserved index faults (R34). -/
def execFldc (d c : Operand) (s : State) : Outcome :=
  .next (match constant c with
    | some v => complete (writeField d v s)
    | none => raiseFault .illegalCmd (encode (.fldc d c)) s)

/-- `FADD Fd, Fa, Fb` (R105). -/
def execFadd (d a b : Operand) (s : State) : Outcome :=
  .next (complete (writeField d (feAdd (readField a s) (readField b s)) s))

/-- `FMUL Fd, Fa, Fb` (R106). -/
def execFmul (d a b : Operand) (s : State) : Outcome :=
  .next (complete (writeField d (feMul (readField a s) (readField b s)) s))

/-- `FPOW Fd, Fa, Fb`: the exponent is the scalar `int(F[b])` (R108). -/
def execFpow (d a b : Operand) (s : State) : Outcome :=
  .next (complete (writeField d (fePow (readField a s) (readScalar b s)) s))

/-- `FINV Fd, Fa`: zero has no inverse, and leaves the destination (R111). -/
def execFinv (d a : Operand) (s : State) : Outcome :=
  .next (if readField a s = 0 then degenerate .noInverse s
    else complete (writeField d (feInv (readField a s)) s))

/-- `FTR Fd, Fa` (R114). -/
def execFtr (d a : Operand) (s : State) : Outcome :=
  .next (complete (writeField d (feTrace (readField a s)) s))

/-- `FHTR Fd, Fa`: it does not test the trace (R117). -/
def execFhtr (d a : Operand) (s : State) : Outcome :=
  .next (complete (writeField d (feHalfTrace (readField a s)) s))

/-- `FCMP Fa, Fb` (R120). -/
def execFcmp (a b : Operand) (s : State) : Outcome :=
  .next (complete (compareFields (readField a s) (readField b s) s))

end Sys2Proof.Machine
end

