-- ==== Sys2Proof/Machine/PointArith.lean ====
section
/-! DEFINITION. The quadratic solver (R140, R142), the group law (R160 to R163) and scalar multiplication
(R190), as pure functions. -/

namespace Sys2Proof.Machine

/-- The curve constant `A = 1` (R7). -/
def curveA : FieldElement := 1

/-- What the solver answers (R140). -/
inductive QuadraticRoot where
  | solved (z : FieldElement)
  | noRoot
  deriving DecidableEq, Repr

/-- `qsolve(u, w)`: a root of `z² + u·z = w`, the three cases in the spec's order (R140). -/
def qsolve (u w : FieldElement) : QuadraticRoot :=
  if u = 0 then .solved (fePow w (2 ^ 162))
  else if w = 0 then .solved 0
  else
    let i := feInv u
    let v := feMul w (feMul i i)
    if feTrace v = 1 then .noRoot else .solved (feMul (feHalfTrace v) u)

/-- `curve_rhs(u) = u³ + A·u² + B`, with `A = 1` (R142); `bc` is the curve constant B. -/
def curveRhs (bc u : FieldElement) : FieldElement :=
  feAdd (feAdd (feMul (feMul u u) u) (feMul u u)) bc

/-- What a point addition answers (R161). -/
inductive PointSum where
  | point (p : Point)
  | unreachable
  deriving DecidableEq, Repr

/-- `is_identity(P)` (R24, R160). -/
def isIdentity (p : Point) : Bool := p.x == 0 && p.y == 0

/-- `point_double(P1)` (R162). -/
def pointDouble (p : Point) : Point :=
  if p.x = 0 then identity
  else
    let l := feAdd p.x (feMul p.y (feInv p.x))
    let x3 := feAdd (feAdd (feMul l l) l) curveA
    ⟨x3, feAdd (feMul p.x p.x) (feMul (feAdd l 1) x3)⟩

/-- `point_add(P1, P2)`: DOC1's four cases in its order, and the combination they leave uncovered (R161). -/
def pointAdd (p q : Point) : PointSum :=
  if isIdentity p then .point q
  else if isIdentity q then .point p
  else if p.x = q.x ∧ q.y = feAdd p.x p.y then .point identity
  else if p.x ≠ q.x then
    let l := feMul (feAdd p.y q.y) (feInv (feAdd p.x q.x))
    let x3 := feAdd (feAdd (feAdd (feAdd (feMul l l) l) p.x) q.x) curveA
    .point ⟨x3, feAdd (feAdd (feMul l (feAdd p.x x3)) x3) p.y⟩
  else if p.y = q.y then .point (pointDouble p)
  else .unreachable

/-- `point_neg(P)` (R163). -/
def pointNeg (p : Point) : Point := ⟨p.x, feAdd p.x p.y⟩

/-- The loop of R190 with at most `n` passes to go: `r` the result so far, `t` the running multiple. -/
def scalarMulLoop : (n : Nat) → (r t : Point) → (k : Nat) → PointSum
  | 0, r, _, _ => .point r
  | n + 1, r, t, k =>
    if k = 0 then .point r
    else if k % 2 = 1 then
      match pointAdd r t with
      | .unreachable => .unreachable
      | .point r' => scalarMulLoop n r' (pointDouble t) (k / 2)
    else scalarMulLoop n r (pointDouble t) (k / 2)

/-- `scalar_mul(P, k)`: one pass for each bit of `k` up to its highest set bit (R190, R192). -/
def scalarMul (p : Point) (k : Nat) : PointSum := scalarMulLoop (k.log2 + 1) identity p k

end Sys2Proof.Machine
end

