-- ==== Sys2Proof/Machine/PointCommands.lean ====
section
/-! DEFINITION. The meanings of the point commands (42_point_group_law.md, 43_scalar_mult.md): `PADD`, `PDBL`,
`PNEG`, `PCMP`, `SMUL`. -/

namespace Sys2Proof.Machine

/-- How `PADD` and `SMUL` end: the sum is written, or the group-law fault is raised by the command's own
word and nothing is written (R164, R191, R231, R234). -/
def deliverSum (i : Instr) (d : Operand) (sum : PointSum) (s : State) : State :=
  match sum with
  | .point p => complete (writePoint d p s)
  | .unreachable => raiseFault .groupLaw (encode i) s

/-- `PADD Pd, Pa, Pb` (R164). -/
def execPadd (d a b : Operand) (s : State) : Outcome :=
  .next (whenLegal (.padd d a b) s
    (deliverSum (.padd d a b) d (pointAdd (readPoint a s) (readPoint b s)) s))

/-- `PDBL Pd, Pa` (R165). -/
def execPdbl (d a : Operand) (s : State) : Outcome :=
  .next (whenLegal (.pdbl d a) s (complete (writePoint d (pointDouble (readPoint a s)) s)))

/-- `PNEG Pd, Pa` (R166). -/
def execPneg (d a : Operand) (s : State) : Outcome :=
  .next (whenLegal (.pneg d a) s (complete (writePoint d (pointNeg (readPoint a s)) s)))

/-- `PCMP Pa, Pb` (R167). -/
def execPcmp (a b : Operand) (s : State) : Outcome :=
  .next (whenLegal (.pcmp a b) s (complete (comparePoints (readPoint a s) (readPoint b s) s)))

/-- `SMUL Pd, Pa, Fb`: the scalar is `int(F[b])`, not reduced (R191). -/
def execSmul (d a b : Operand) (s : State) : Outcome :=
  .next (whenLegal (.smul d a b) s
    (deliverSum (.smul d a b) d (scalarMul (readPoint a s) (readScalar b s)) s))

end Sys2Proof.Machine
end

