-- ==== Sys2Proof/Machine/SolverCommands.lean ====
section
/-! DEFINITION. The meanings of the solver commands (41_quadratic_solver.md): `QSOLVE`, `PFROMX`. -/

namespace Sys2Proof.Machine

/-- `QSOLVE Fd, Fa, Fb` solves `z² + F[a]·z = F[b]`; with no root the destination stays (R141). -/
def execQsolve (d a b : Operand) (s : State) : Outcome :=
  .next (match qsolve (readField a s) (readField b s) with
    | .solved z => complete (writeField d z s)
    | .noRoot => degenerate .noRoot s)

/-- `PFROMX Pd, Fa`: the point with x-coordinate `F[a]`; with no root the destination stays (R143). -/
def execPfromx (d a : Operand) (s : State) : Outcome :=
  .next (whenLegal (.pfromx d a) s
    (match qsolve (readField a s) (curveRhs Config.bConst (readField a s)) with
      | .solved z => complete (writePoint d ⟨readField a s, z⟩ s)
      | .noRoot => degenerate .noRoot s))

end Sys2Proof.Machine
end

