-- ==== Sys2Proof/Machine/Dispatch.lean ====
section
/-! DEFINITION. What a decoded command does: one arm per command, each one call of its meaning. -/

namespace Sys2Proof.Machine

def exec (i : Instr) (s : State) : Host.Outcome State Fault Refusal :=
  match i with
  | .nop => Sys2Proof.Machine.execNop s
  | .fmov d a => Sys2Proof.Machine.execFmov d a s
  | .fldc d c => Sys2Proof.Machine.execFldc d c s
  | .fadd d a b => Sys2Proof.Machine.execFadd d a b s
  | .fmul d a b => Sys2Proof.Machine.execFmul d a b s
  | .fpow d a b => Sys2Proof.Machine.execFpow d a b s
  | .finv d a => Sys2Proof.Machine.execFinv d a s
  | .ftr d a => Sys2Proof.Machine.execFtr d a s
  | .fhtr d a => Sys2Proof.Machine.execFhtr d a s
  | .fcmp a b => Sys2Proof.Machine.execFcmp a b s
  | .qsolve d a b => Sys2Proof.Machine.execQsolve d a b s
  | .pfromx d a => Sys2Proof.Machine.execPfromx d a s
  | .padd d a b => Sys2Proof.Machine.execPadd d a b s
  | .pdbl d a => Sys2Proof.Machine.execPdbl d a s
  | .pneg d a => Sys2Proof.Machine.execPneg d a s
  | .pcmp a b => Sys2Proof.Machine.execPcmp a b s
  | .smul d a b => Sys2Proof.Machine.execSmul d a b s

end Sys2Proof.Machine
end

