-- ==== Sys2Proof/Machine/Port.lean ====
section
/-! DEFINITION. The host port (20_memory.md): the map of the window (R56), reads and writes of its words, the
issue of a command, and what each event from outside does. -/

namespace Sys2Proof.Machine

/-- What stands at an aligned address of the window (R56). -/
inductive PortTarget where
  /-- Word `W_k` of field register `F[i]`. -/
  | fieldWord (i : Operand) (k : Fin 6)
  | cmd
  | status
  | ctrl
  | id
  | faultCmd
  | reserved
  deriving DecidableEq, Repr

/-- The map of R56: sixteen windows of 0x20 bytes, six words each and two reserved (R57), then the control
words of R27, then reserved addresses. -/
def portTarget (addr : Nat) : PortTarget :=
  if addr < 0x200 then
    if h : addr % 0x20 / 4 < 6 then .fieldWord (Fin.ofNat 16 (addr / 0x20)) ⟨addr % 0x20 / 4, h⟩ else .reserved
  else if addr = 0x200 then .cmd
  else if addr = 0x204 then .status
  else if addr = 0x208 then .ctrl
  else if addr = 0x20C then .id
  else if addr = 0x210 then .faultCmd
  else .reserved

/-- The constant `ID` word: command set version 1, sixteen registers, degree 163 (R31). -/
def idWord : Word := 0x000110A3

/-- The word a read returns (R28, R30, R31, R58, R60, R61). -/
def readTarget (t : PortTarget) (s : State) : Word :=
  match t with
  | .fieldWord i k => regWord (readField i s) k
  | .cmd => 0
  | .status => statusWord s
  | .ctrl => 0
  | .id => idWord
  | .faultCmd => s.faultCmd
  | .reserved => 0

/-- A word written to `CMD`: discarded undecoded while `FAULT = 1` (R33, R238), else checked (R90), and run to
its end if legal. DEDUCED, unsafe only for claims about `exec` in a faulted state: log entry 9. -/
def issueCommand (w : Word) (s : State) : Outcome :=
  if s.fault then .next s
  else
    match decode w with
    | .error _ => .next (raiseFault .illegalCmd w s)
    | .ok i => exec i s

/-- What a write does (R32, R33, R59 to R61, R64). -/
def writeTarget (t : PortTarget) (v : Word) (s : State) : Outcome :=
  match t with
  | .fieldWord i k => .next (writeField i (setRegWord (readField i s) k v) s)
  | .cmd => issueCommand v s
  | .status => .next s
  | .ctrl => .next (if v.getLsbD 0 then resetBlock s else s)
  | .id => .next s
  | .faultCmd => .next s
  | .reserved => .next s

/-- The bus answers the host; the block itself is untouched. -/
def respond (r : BusResponse) (s : State) : State := { s with response := some r }

/-- The checks every access meets, in order: outside the window it is not the block's (R60, item A1; DESIGN
CHOICE, safe: log entry 7); misaligned or not 32 bits wide it gets the bus's error response and changes nothing
of the block (R62, R241; DEDUCED, safe: log entry 8); else it is performed. -/
def hostAccess (addr bits : Nat) (s : State) (perform : PortTarget → Outcome) : Outcome :=
  if 0x400 ≤ addr then .fault .outsideWindow
  else if addr % 4 ≠ 0 ∨ bits ≠ 32 then .next (respond .busError s)
  else perform (portTarget addr)

/-- One event from outside, whole (R63, R65, R68): a transaction on the port, or the hard reset (R260),
between commands (DEDUCED, safe: log entry 11). -/
def handleEvent (e : HostEvent) (s : State) : Outcome :=
  match e with
  | .portRead addr bits => hostAccess addr bits s fun t => .next (respond (.data (readTarget t s)) s)
  | .portWrite addr bits v => hostAccess addr bits s fun t => writeTarget t v (respond .ack s)
  | .hardReset => .next (resetBlock s)

/-- The host's next event is taken from its list. -/
def takeEvent (rest : List HostEvent) (s : State) : State := { s with pending := rest }

/-- The event that issues the command word `w`: a 32-bit write to `CMD` (R33). -/
def cmdWrite (w : Word) : HostEvent := .portWrite 0x200 32 w

/-- The host will issue `w` before anything else it has to do. -/
def issueNext (w : Word) (s : State) : State := { s with pending := cmdWrite w :: s.pending }

end Sys2Proof.Machine
end

