-- ==== Sys2Proof/Machine/Step.lean ====
section
/-! DEFINITION. One step of the machine: the block takes the host's next event, to its end (R65, R68). -/

namespace Sys2Proof.Machine

/-- With nothing asked of it the block is idle and keeps all its state (R244). A command is one step (R271):
DEDUCED, safe, log entry 14. -/
def step (s : State) : Host.Outcome State Fault Refusal :=
  match s.pending with
  | [] => .next s
  | e :: rest => handleEvent e (takeEvent rest s)

/-- The host's entry: the command word `w` is what the host writes to `CMD` next. The block fetches nothing
(R26), so a command comes to it only so (DEDUCED, safe: log entry 6); a block whose `FAULT` is 1 discards it (R238). -/
def State.withFetchWord (s : State) (nbits w : Nat) : State :=
  issueNext (BitVec.ofNat 32 (w % 2 ^ nbits)) s

end Sys2Proof.Machine
end

