-- ==== Sys2Proof/Machine/HostSide.lean ====
section
/-! DEFINITION. What the host does with the block: the value encodings (R52, R53), the pseudo-instructions and
directives of the listings (R93, R94), and the procedures of 44_host_sequences.md (R200 to R211). None of it
is hardware and `step` uses none of it (R4): these are programs over the machine. The host's free inputs (the
random draws, the hash, the iteration cap) are arguments (R200, R201, D30; DESIGN CHOICE, safe: log entry 16). -/

namespace Sys2Proof.Machine

/-! ### Value encodings -/

/-- The 21-byte big-endian string of a field element (R52). -/
def toBytes (v : FieldElement) : List (BitVec 8) :=
  (List.range 21).map fun j => ((v.setWidth 168) >>> (8 * (20 - j))).setWidth 8

/-- The big-endian unsigned integer a byte string spells (R51). -/
def bytesToNat (bs : List (BitVec 8)) : Nat := bs.foldl (fun n b => n * 256 + b.toNat) 0

/-- A value wider than 163 bits presented as a field element: bits 163 and above are discarded (R54). -/
def maskField (n : Nat) : FieldElement := BitVec.ofNat 163 n

/-- A byte string of at most 21 bytes as a field element: left-padded, decoded, masked (R52, R54; DEDUCED, safe:
log entry 17). R52 gives a longer string no decoding, "cannot be a FieldElement": the answer is none (DESIGN
CHOICE, safe: log entry 18). -/
def fromBytes (bs : List (BitVec 8)) : Option FieldElement :=
  if bs.length ≤ 21 then some (maskField (bytesToNat bs)) else none

/-- The unsigned integer a hex string spells, most significant digit first (R53). -/
def hexToNat (ds : List (Fin 16)) : Nat := ds.foldl (fun n d => n * 16 + d.val) 0

/-- A field-element literal of 1 to 41 digits, masked to 163 bits (R53, R54, R95; DEDUCED, safe: log entry 17).
R53 says nothing of an empty string or a longer one: the answer is none (DESIGN CHOICE, safe: log entry 18). -/
def fromHex (ds : List (Fin 16)) : Option FieldElement :=
  if 1 ≤ ds.length ∧ ds.length ≤ 41 then some (maskField (hexToNat ds)) else none

/-- `fieldElementFromDigest`: the last 21 bytes of the digest, all of a shorter one, decoded and masked (R203). -/
def fieldElementFromDigest (digest : List (BitVec 8)) : FieldElement :=
  maskField (bytesToNat (digest.drop (digest.length - 21)))

/-! ### Pseudo-instructions (R93); `pd`, `pa` are even indices -/

def pseudoFSQR (d a : Operand) : List Instr := [.fmul d a a]
def pseudoFSUB (d a b : Operand) : List Instr := [.fadd d a b]
def pseudoFZERO (d : Operand) : List Instr := [.fldc d 0]
def pseudoFONE (d : Operand) : List Instr := [.fldc d 1]
def pseudoPMOV (pd pa : Operand) : List Instr := [.fmov pd pa, .fmov (pairY pd) (pairY pa)]
def pseudoPZERO (pd : Operand) : List Instr := [.fldc pd 0, .fldc (pairY pd) 0]
def pseudoPLDG (pd : Operand) : List Instr := [.fldc pd 4, .fldc (pairY pd) 5]

/-! ### Directives (R94) -/

/-- The port address of word `W_k` of `F[i]` (R56, R57). -/
def fieldWordAddr (i : Operand) (k : Nat) : Nat := 0x20 * i.val + 4 * k

/-- `HWR Fi, lit`: six port writes; a literal of 41 digits may have bit 163 set, which the port drops. -/
def hwr (i : Operand) (lit : BitVec 164) : List HostEvent :=
  (List.range 6).map fun k =>
    .portWrite (fieldWordAddr i k) 32 (((lit.setWidth 192) >>> (160 - 32 * k)).setWidth 32)

/-- `HWRP Pj, x, y`. -/
def hwrp (pd : Operand) (x y : BitVec 164) : List HostEvent := hwr pd x ++ hwr (pairY pd) y

/-- `HRD Fi`: six port reads. -/
def hrd (i : Operand) : List HostEvent := (List.range 6).map fun k => .portRead (fieldWordAddr i k) 32

/-- `HST`: read the `STATUS` word. -/
def hst : HostEvent := .portRead 0x204 32

/-- `HRESET`: soft reset. -/
def hreset : HostEvent := .portWrite 0x208 32 1

/-- The host issues these commands, one `CMD` write each. -/
def issueAll (is : List Instr) : List HostEvent := is.map fun i => cmdWrite (encode i)

/-- The block takes these events, one after the other, as steps over a list that holds them do (R65). -/
def runEvents : List HostEvent → State → Outcome
  | [], s => .next s
  | e :: rest, s =>
    match handleEvent e s with
    | .next t => runEvents rest t
    | .fault r => .fault r
    | .refused r => .refused r

/-- The state a list of events leaves, if no event stops. -/
def afterEvents (es : List HostEvent) (s : State) : Option State :=
  match runEvents es s with
  | .next t => some t
  | .fault _ => none
  | .refused _ => none

/-! ### Procedures -/

/-- One pass of a resampling loop: load a draw into `f`, issue the commands, read `STATUS`. -/
def attempt (f : Operand) (is : List Instr) (draw : FieldElement) (s : State) : Option State :=
  afterEvents (hwr f (draw.setWidth 164) ++ issueAll is ++ [hst]) s

/-- A resampling loop with as many tries as there are draws: the state after the first pass that `good`
accepts, or none, "could not sample" (R202, R205, R269). -/
def resample (pass : FieldElement → State → Option State) (good : State → Bool) :
    List FieldElement → State → Option State
  | [], _ => none
  | draw :: rest, s =>
    match pass draw s with
    | none => none
    | some t => if good t then some t else resample pass good rest t

/-- `generatePoint()`: the point is left in `P[pd]`, the draws go through `F[fu]` (R202). -/
def generatePoint (fu pd : Operand) : List FieldElement → State → Option State :=
  resample (attempt fu [.pfromx pd fu]) fun t => t.result == .ok

/-- `Q = d·G`, with `d` in `F[fd]` (R204). -/
def publicPoint (pa pq fd : Operand) : List Instr := pseudoPLDG pa ++ [.smul pq pa fd]

/-- Presignature: draws of `e` until `R = e·G` has `R.x != 0`; `fe` is then `F[pr]` (R205). -/
def presign (pa pr fe fz : Operand) : List FieldElement → State → Option State :=
  resample (attempt fe (pseudoPLDG pa ++ [.smul pr pa fe, .fldc fz 0, .fcmp pr fz])) fun t => !t.eq

/-- The registers `sign` uses: `h`, `fe`, `e`, `d` loaded, `r`, `s` its results, `z`, `t` scratch (R206). -/
structure SignRegs where
  h : Operand
  fe : Operand
  e : Operand
  d : Operand
  r : Operand
  s : Operand
  z : Operand
  t : Operand
  deriving DecidableEq, Repr

/-- `sign`: `r = h ⊗ fe`, failing if `r = 0`; `s = e ⊕ (d ⊗ r)`, failing if `s = 0` (R206, R208). -/
def sign (g : SignRegs) (st : State) : Option State :=
  match afterEvents (issueAll [.fmul g.r g.h g.fe, .fldc g.z 0, .fcmp g.r g.z] ++ [hst]) st with
  | none => none
  | some t =>
    if t.eq then none
    else
      match afterEvents (issueAll [.fmul g.t g.d g.r, .fadd g.s g.e g.t, .fcmp g.s g.z] ++ [hst]) t with
      | none => none
      | some u => if u.eq then none else some u

/-- The registers `verify` uses: point registers for G, `s·G`, `r·Q`, their sum and `Q`; field registers for `s`,
`r`, `h`, `fe`, and for `rCheck` and `r_expected` (R207). -/
structure VerifyRegs where
  g : Operand
  p1 : Operand
  p2 : Operand
  p3 : Operand
  q : Operand
  s : Operand
  r : Operand
  h : Operand
  fe : Operand
  c : Operand
  x : Operand
  deriving DecidableEq, Repr

/-- `verify` on the block, with `Q`, `s`, `r`, `h`, `fe` loaded: the answer is `EQ` (R207), and none if `STATUS`
shows a fault (R266). -/
def verify (v : VerifyRegs) (st : State) : Option Bool :=
  match afterEvents (issueAll (pseudoPLDG v.g ++ [.smul v.p1 v.g v.s, .smul v.p2 v.q v.r, .padd v.p3 v.p1 v.p2,
      .fmul v.c v.h v.p3, .fmul v.x v.h v.fe, .fcmp v.x v.c]) ++ [hst]) st with
  | none => none
  | some t => if t.fault then none else some t.eq

/-- The field element `sign` and `verify` take for a message: `hash` is the host's, any pure function with a
digest of at least 21 bytes (R200, R203). -/
def messageElement (hash : List (BitVec 8) → List (BitVec 8)) (message : List (BitVec 8)) : FieldElement :=
  fieldElementFromDigest (hash message)

/-! ### An instance of the signature scheme (R204). The host reads a register here as `HRD` does. -/

/-- What the host holds of an instance (R204): the private scalar `d`, the public point `Q = d·G`, and the one
presignature `(e, fe)`, which every `sign` and `verify` of the instance uses. -/
structure SignatureScheme where
  d : Nat
  q : Point
  e : FieldElement
  fe : FieldElement
  deriving DecidableEq, Repr

/-- The private scalar is in its range `0 < d < n` (R204). -/
def validScalar (d : Nat) : Bool := 0 < d && d < Config.nConst.toNat

/-- The registers construction uses: point registers for G, `Q` and `R`, field registers for `d`, `e` and zero. -/
structure SetupRegs where
  g : Operand
  q : Operand
  r : Operand
  d : Operand
  e : Operand
  z : Operand
  deriving DecidableEq, Repr

/-- A presignature `(e, fe)` drawn on the block (R205), read once `STATUS` shows no fault (R266). -/
def presignature (k : SetupRegs) (draws : List FieldElement) (st : State) :
    Option ((FieldElement × FieldElement) × State) :=
  match presign k.g k.r k.e k.z draws st with
  | none => none
  | some t => if t.fault then none else some ((readField k.e t, readField k.r t), t)

/-- Construction (R204): `d` must be in its range; `Q` is computed once, and the presignature is drawn once. A
`d` outside its range makes no instance (DESIGN CHOICE, safe: log entry 16). -/
def construct (k : SetupRegs) (d : Nat) (draws : List FieldElement) (st : State) :
    Option (SignatureScheme × State) :=
  if validScalar d then
    match afterEvents (hwr k.d (BitVec.ofNat 164 d) ++ issueAll (publicPoint k.g k.q k.d) ++ [hst]) st with
    | none => none
    | some t => (presignature k draws t).map fun p => (⟨d, readPoint k.q t, p.1.1, p.1.2⟩, p.2)
  else none

/-- What a host does after a failed `sign`: the same instance with a new presignature (R208). -/
def resamplePresignature (k : SetupRegs) (i : SignatureScheme) (draws : List FieldElement) (st : State) :
    Option (SignatureScheme × State) :=
  (presignature k draws st).map fun p => ({ i with e := p.1.1, fe := p.1.2 }, p.2)

/-- `sign` by an instance, for the message element `h`: the scalars and `fe` are loaded, `sign` runs, `(r, s)` is
read once `STATUS` shows no fault (R206, R266). The instance stays as it is (R204, R209). -/
def signWith (g : SignRegs) (i : SignatureScheme) (h : FieldElement) (st : State) :
    Option ((FieldElement × FieldElement) × State) :=
  match afterEvents (hwr g.h (h.setWidth 164) ++ hwr g.fe (i.fe.setWidth 164) ++ hwr g.e (i.e.setWidth 164) ++
      hwr g.d (BitVec.ofNat 164 i.d)) st with
  | none => none
  | some t =>
    match sign g t with
    | none => none
    | some u => if u.fault then none else some ((readField g.r u, readField g.s u), u)

/-- `verify` by an instance, of `(r, s)` for the message element `h`: it uses the instance's `Q` and its own `fe`
(R207). -/
def verifyWith (v : VerifyRegs) (i : SignatureScheme) (h r s : FieldElement) (st : State) : Option Bool :=
  match afterEvents (hwrp v.q (i.q.x.setWidth 164) (i.q.y.setWidth 164) ++ hwr v.s (s.setWidth 164) ++
      hwr v.r (r.setWidth 164) ++ hwr v.h (h.setWidth 164) ++ hwr v.fe (i.fe.setWidth 164)) st with
  | none => none
  | some t => verify v t

end Sys2Proof.Machine
end

