-- ==== Sys2Proof/Safety.lean ====
section
/-! DEFINITION. The terms statements use: what stays of a state, what a command writes, the invariants of the
block, and the curve. -/

namespace Sys2Proof.Safety

open Sys2Proof.Machine

/-- The block proper is as it was: only the host's view (its events to come, the bus's answer) may differ. -/
def sameBlock (s t : State) : Prop :=
  t.fregs = s.fregs ∧ t.fault = s.fault ∧ t.fcause = s.fcause ∧ t.result = s.result ∧ t.eq = s.eq ∧
    t.lt = s.lt ∧ t.faultCmd = s.faultCmd ∧ t.resets = s.resets

/-- The fault record is as it was. -/
def sameFault (s t : State) : Prop :=
  t.fault = s.fault ∧ t.fcause = s.fcause ∧ t.faultCmd = s.faultCmd

/-- The flags are as they were. -/
def sameFlags (s t : State) : Prop := t.eq = s.eq ∧ t.lt = s.lt

/-- The model's own fields are as they were. -/
def sameHost (s t : State) : Prop :=
  t.pending = s.pending ∧ t.response = s.response ∧ t.resets = s.resets

/-- Every field register outside `written` is as it was. -/
def sameFieldsBut (written : List Operand) (s t : State) : Prop :=
  ∀ r : Operand, r ∉ written → readField r t = readField r s

/-- All that a command leaves alone when it completes without touching the flags: the flags, the fault
record, the model's own fields, and every register outside `written`. -/
def frame (written : List Operand) (s t : State) : Prop :=
  sameFlags s t ∧ sameFault s t ∧ sameHost s t ∧ sameFieldsBut written s t

/-- The state `raise Fault(cause)` leaves, for the command word `w` (R231): three fields, nothing else. -/
def faultedFrom (s : State) (cause : FaultCause) (w : Word) (t : State) : Prop :=
  t.fault = true ∧ t.fcause = cause ∧ t.faultCmd = w ∧ t.fregs = s.fregs ∧ t.result = s.result ∧
    sameFlags s t ∧ sameHost s t

/-- The registers a command names as its destination (R82); a point destination is a pair (R22). -/
def destinations : Instr → List Operand
  | .nop => []
  | .fmov d _ => [d]
  | .fldc d _ => [d]
  | .fadd d _ _ => [d]
  | .fmul d _ _ => [d]
  | .fpow d _ _ => [d]
  | .finv d _ => [d]
  | .ftr d _ => [d]
  | .fhtr d _ => [d]
  | .fcmp _ _ => []
  | .qsolve d _ _ => [d]
  | .pfromx d _ => [d, pairY d]
  | .padd d _ _ => [d, pairY d]
  | .pdbl d _ => [d, pairY d]
  | .pneg d _ => [d, pairY d]
  | .pcmp _ _ => []
  | .smul d _ _ => [d, pairY d]

/-- The two commands that write the flags (R29). -/
def isCompare : Instr → Bool
  | .fcmp _ _ => true
  | .pcmp _ _ => true
  | _ => false

/-- The events that reset the block: the reset input, and the soft reset (R260). -/
def isResetEvent : HostEvent → Bool
  | .hardReset => true
  | .portWrite addr bits v => addr == 0x208 && bits == 32 && v.getLsbD 0
  | .portRead _ _ => false

/-- The fault record is what faults leave (R28, R30, R232): nothing recorded while `FAULT = 0`; while
`FAULT = 1`, a cause, and the word that raised it: illegal, or a legal `PADD` or `SMUL`. -/
def faultRecord (s : State) : Prop :=
  (s.fault = false → s.fcause = .none ∧ s.faultCmd = 0) ∧
  (s.fault = true →
    (s.fcause = .illegalCmd ∧ ∃ r, decode s.faultCmd = .error r) ∨
    (s.fcause = .groupLaw ∧ ∃ d a b,
      decode s.faultCmd = .ok (.padd d a b) ∨ decode s.faultCmd = .ok (.smul d a b)))

/-- At most one of the flags is 1 (R120, R167). -/
abbrev flagsExclusive (s : State) : Prop := ¬ (s.eq = true ∧ s.lt = true)

/-- The invariant of the block. -/
def Inv (s : State) : Prop := faultRecord s ∧ flagsExclusive s

/-- The aligned 32-bit read at `addr` answers `v`, and changes nothing but the host's view of the answer. -/
def portReads (addr : Nat) (v : Word) (s : State) : Prop :=
  handleEvent (.portRead addr 32) s = .next { s with response := some (.data v) }

/-! ### The spec's own lists of legal words -/

/-- One row of spec/opcode_table.json: a word is of this row if `w &&& mask = bits` (its "match"). -/
structure TableRow where
  mnemonic : String
  bits : Word
  mask : Word
  deriving DecidableEq, Repr

/-- spec/opcode_table.json, row by row. -/
def opcodeTable : List TableRow := [
  ⟨"NOP", 0x00000000, 0xFFFFFFFF⟩, ⟨"FMOV", 0x01000000, 0xFF00FFFF⟩, ⟨"FLDC", 0x02000000, 0xFF00FFFF⟩,
  ⟨"FADD", 0x10000000, 0xFF000FFF⟩, ⟨"FMUL", 0x11000000, 0xFF000FFF⟩, ⟨"FPOW", 0x12000000, 0xFF000FFF⟩,
  ⟨"FINV", 0x13000000, 0xFF00FFFF⟩, ⟨"FTR", 0x14000000, 0xFF00FFFF⟩, ⟨"FHTR", 0x15000000, 0xFF00FFFF⟩,
  ⟨"FCMP", 0x16000000, 0xFFF00FFF⟩, ⟨"QSOLVE", 0x20000000, 0xFF000FFF⟩, ⟨"PFROMX", 0x21000000, 0xFF10FFFF⟩,
  ⟨"PADD", 0x30000000, 0xFF111FFF⟩, ⟨"PDBL", 0x31000000, 0xFF11FFFF⟩, ⟨"PNEG", 0x32000000, 0xFF11FFFF⟩,
  ⟨"PCMP", 0x33000000, 0xFFF11FFF⟩, ⟨"SMUL", 0x40000000, 0xFF110FFF⟩]

/-- The word matches a row of the opcode table, and meets its row's constraint (for `FLDC`, index at most 6). -/
def inTable (w : Word) : Prop :=
  (∃ row ∈ opcodeTable, w &&& row.mask = row.bits) ∧ (w.toNat / 2 ^ 24 = 0x02 → w.toNat / 2 ^ 16 % 16 ≤ 6)

/-- The five conditions of R90 on the fields of a word, with the formats of R82 and R87 written out by opcode. -/
abbrev illegalFields (op d a b z : Nat) : Prop :=
  op ∉ [0x00, 0x01, 0x02, 0x10, 0x11, 0x12, 0x13, 0x14, 0x15, 0x16, 0x20, 0x21, 0x30, 0x31, 0x32, 0x33, 0x40] ∨
  z ≠ 0 ∨
  ((op = 0x00 ∧ (d ≠ 0 ∨ a ≠ 0 ∨ b ≠ 0)) ∨
    (op ∈ [0x01, 0x02, 0x13, 0x14, 0x15, 0x21, 0x31, 0x32] ∧ b ≠ 0) ∨ (op ∈ [0x16, 0x33] ∧ d ≠ 0)) ∨
  ((op ∈ [0x21, 0x30, 0x31, 0x32, 0x40] ∧ d % 2 = 1) ∨ (op ∈ [0x30, 0x31, 0x32, 0x33, 0x40] ∧ a % 2 = 1) ∨
    (op ∈ [0x30, 0x33] ∧ b % 2 = 1)) ∨
  (op = 0x02 ∧ a > 6)

/-- The word `w = op·2^24 + d·2^20 + a·2^16 + b·2^12 + z` is illegal (R81, R90). -/
abbrev illegalWord (w : Word) : Prop :=
  illegalFields (w.toNat / 2 ^ 24) (w.toNat / 2 ^ 20 % 16) (w.toNat / 2 ^ 16 % 16) (w.toNat / 2 ^ 12 % 16)
    (w.toNat % 2 ^ 12)

/-! ### The field and the curve -/

/-- The loop of the carry-less product: the sum of `a·x^i` over the bits `i < n` set in `b`. -/
def carrylessLoop : (n a b : Nat) → Nat
  | 0, _, _ => 0
  | n + 1, a, b => (if b % 2 = 1 then a else 0) ^^^ carrylessLoop n (a <<< 1) (b / 2)

/-- The carry-less product of two polynomials read as integers, not reduced (R10, R104). -/
def carryless (a b : Nat) : Nat := carrylessLoop (b.log2 + 1) a b

/-- The product of `k` copies of `a`, the empty product 1 (R107). -/
def copies (a : FieldElement) : (k : Nat) → FieldElement
  | 0 => 1
  | k + 1 => feMul a (copies a k)

/-- `a` squared `n` times, `a^(2^n)`. -/
def squared (a : FieldElement) : (n : Nat) → FieldElement
  | 0 => a
  | n + 1 => feSquare (squared a n)

/-- The sum of `a^(2^(step·i))` over `i = 0 … n` (R113 with step 1, R116 with step 2). -/
def frobeniusSum (step : Nat) (a : FieldElement) : (n : Nat) → FieldElement
  | 0 => a
  | n + 1 => feAdd (frobeniusSum step a n) (squared a (step * (n + 1)))

/-- The pair satisfies the curve equation `y² + xy = x³ + A·x² + B` (R1); `bc` is B. -/
abbrev onCurve (bc : FieldElement) (p : Point) : Prop :=
  feAdd (feMul p.y p.y) (feMul p.x p.y) = curveRhs bc p.x

/-- A point of the curve, or the identity (R25). -/
def validPoint (bc : FieldElement) (p : Point) : Prop := p = identity ∨ onCurve bc p

/-- `p` doubled `n` times, `2^n · p`. -/
def doubled (p : Point) : (n : Nat) → Point
  | 0 => p
  | n + 1 => pointDouble (doubled p n)

/-- A sum with one more point added to it; once unreachable, so it stays (R190). -/
def addTo (sum : PointSum) (q : Point) : PointSum :=
  match sum with
  | .point p => pointAdd p q
  | .unreachable => .unreachable

/-- The word is a legal `PADD` or `SMUL` that meets an unreachable addition in this state (R161, R190, R234). -/
def unreachableCommand (w : Word) (s : State) : Prop :=
  (∃ d a b, decode w = .ok (.padd d a b) ∧ pointAdd (readPoint a s) (readPoint b s) = .unreachable) ∨
    (∃ d a b, decode w = .ok (.smul d a b) ∧ scalarMul (readPoint a s) (readScalar b s) = .unreachable)

/-- A run of `n` steps from `s` ends in `t`. -/
def runsTo (n : Nat) (s t : State) : Prop := Sys2Proof.core.run n s = .next t

/-- A run none of whose commands faulted is one that ends with `FAULT = 0` (R238). -/
def cleanRun (n : Nat) (s t : State) : Prop := runsTo n s t ∧ t.fault = false

end Sys2Proof.Safety
end

