-- ==== Sys2Proof/Certificates/Slice0/Obligations.lean ====
section
/-! DEFINITION. The statements for the provers, in OBLIGATIONS.json's order. -/

open Sys2Proof Sys2Proof.Machine Sys2Proof.Safety

/-! ### Encoding -/

/-- Decoding the word of a well-formed command gives the command back (R81, R82, R87, R90). -/
def Obligations.DecodeOfEncode : Prop :=
  ∀ i : Instr, i.wellFormed = true → decode (encode i) = .ok i

/-- A legal word is the word of the one command it decodes to, and that command is well formed. -/
def Obligations.EncodeOfDecode : Prop :=
  ∀ (w : Word) (i : Instr), decode w = .ok i → encode i = w ∧ i.wellFormed = true

/-- The decoder accepts exactly the words of the opcode table (spec/opcode_table.json, R87). -/
def Obligations.DecoderAcceptsTheOpcodeTable : Prop :=
  ∀ w : Word, (∃ i, decode w = .ok i) ↔ inTable w

/-- Words written out from R81 and R87 decode to the commands they stand for. -/
def Obligations.SampleWordsDecode : Prop :=
  decode 0b00010001001100010010000000000000 = .ok (.fmul 3 1 2) ∧
  decode 0b00110000010000000010000000000000 = .ok (.padd 4 0 2) ∧
  decode 0b01000000011000001001000000000000 = .ok (.smul 6 0 9) ∧
  decode 0b00100001111000010000000000000000 = .ok (.pfromx 14 1) ∧
  decode 0b00010110000000000001000000000000 = .ok (.fcmp 0 1) ∧
  decode 0b00000010111101100000000000000000 = .ok (.fldc 15 6) ∧
  decode 0 = .ok .nop

/-! ### Steps and the port -/

/-- A step whose next event is a write to `CMD` of a legal word runs that command: in the state with the
event taken and the write acknowledged, and with nothing done around it. -/
def Obligations.StepRunsTheDecodedCommand : Prop :=
  ∀ (s : State) (w : Word) (rest : List HostEvent) (i : Instr),
    s.pending = cmdWrite w :: rest → s.fault = false → decode w = .ok i →
    step s = exec i { s with pending := rest, response := some .ack }

/-- A step with nothing pending keeps all state (R244). Any other step is what its event does, to its end, in the
state with that event taken (R65, R68), and leaves the other events. The list is the model's own (DESIGN CHOICE,
log entry 4). -/
def Obligations.StepTakesOneEvent : Prop :=
  ∀ s : State,
    (s.pending = [] → step s = .next s) ∧
    (∀ (e : HostEvent) (rest : List HostEvent), s.pending = e :: rest →
      step s = handleEvent e { s with pending := rest } ∧ ∀ t, step s = .next t → t.pending = rest)

/-- A step stops only at an access outside the window (R60; that the model stops there is log entry 7). -/
def Obligations.StepStopsOnlyOutsideTheWindow : Prop :=
  ∀ s : State,
    (∃ t, step s = .next t) ∨
    (step s = .fault .outsideWindow ∧
      ∃ addr bits v rest, 0x400 ≤ addr ∧
        (s.pending = .portRead addr bits :: rest ∨ s.pending = .portWrite addr bits v :: rest))

/-- R90: a word that any of the five checks fails faults `ILLEGAL_CMD` with no other effect; every other word
is a command and goes on to its own rule. -/
def Obligations.DecodeCheckFaultsIllegalWords : Prop :=
  ∀ (s : State) (w : Word), s.fault = false →
    (illegalWord w → ∃ t, issueCommand w s = .next t ∧ faultedFrom s .illegalCmd w t) ∧
    (¬ illegalWord w → ∃ i, decode w = .ok i ∧ issueCommand w s = exec i s)

/-- R231: whatever command faults, its fault leaves `FAULT`, `FCAUSE` and `FAULTCMD` as recorded, the last
being the command word itself, and changes nothing else. -/
def Obligations.FaultEntryChangesNothingElse : Prop :=
  ∀ (s t : State) (w : Word), s.fault = false → issueCommand w s = .next t → t.fault = true →
    faultedFrom s t.fcause w t ∧ (t.fcause = .illegalCmd ∨ t.fcause = .groupLaw)

/-- R232 to R234: with `FAULT = 0`, a word written to `CMD` faults `ILLEGAL_CMD` exactly if it fails the decode check,
`GROUP_LAW` exactly if it is a legal `PADD` or `SMUL` that meets an unreachable addition, and with no other cause. -/
def Obligations.FaultCausesAreExact : Prop :=
  ∀ (s : State) (w : Word), s.fault = false →
    ∃ t, issueCommand w s = .next t ∧
      (t.fault = true ∧ t.fcause = .illegalCmd ↔ illegalWord w) ∧
      (t.fault = true ∧ t.fcause = .groupLaw ↔ ¬ illegalWord w ∧ unreachableCommand w s) ∧
      (t.fault = true → t.fcause = .illegalCmd ∨ t.fcause = .groupLaw)

/-- R238: in the faulted state a `CMD` write changes nothing, every read works as usual, writes to register
windows take effect, the soft reset resets, and nothing but a reset clears `FAULT`. -/
def Obligations.FaultedBlockUntilReset : Prop :=
  ∀ s : State, s.fault = true →
    (∀ w, handleEvent (cmdWrite w) s = .next (respond .ack s)) ∧
    (∀ addr, addr < 0x400 → addr % 4 = 0 → ∃ t w, handleEvent (.portRead addr 32) s = .next t ∧
      t.response = some (.data w) ∧ sameBlock s t ∧
      ∃ u, handleEvent (.portRead addr 32) { s with fault := false } = .next u ∧
        (addr ≠ 0x204 → u.response = t.response)) ∧
    (∀ (i : Operand) (k : Fin 6) (v : Word),
      ∃ t, handleEvent (.portWrite (0x20 * i.val + 4 * k.val) 32 v) s = .next t ∧
        readField i t = setRegWord (readField i s) k v ∧ sameFault s t) ∧
    (∀ v : Word, v.getLsbD 0 = true →
      ∃ t, handleEvent (.portWrite 0x208 32 v) s = .next t ∧ t.fault = false ∧ statusWord t = 0) ∧
    (∀ e t, isResetEvent e = false → handleEvent e s = .next t →
      t.fault = true ∧ t.fcause = s.fcause ∧ t.faultCmd = s.faultCmd)

/-- R30, R56: the read at 0x210 answers `FAULTCMD`: zero while `FAULT = 0`; the word that faults from the moment
`FAULT` goes from 0 to 1; and that word, not written again, until reset. -/
def Obligations.FaultCmdHoldsTheFaultingWord : Prop :=
  ∀ s : State, faultRecord s →
    portReads 0x210 s.faultCmd s ∧
    (s.fault = false → portReads 0x210 0 s) ∧
    (∀ w t, s.fault = false → handleEvent (cmdWrite w) s = .next t → t.fault = true → portReads 0x210 w t) ∧
    (∀ e t, s.fault = true → isResetEvent e = false → handleEvent e s = .next t → portReads 0x210 s.faultCmd t)

/-- R58, R59: the read of a word after a write of a word of the same register: the written word (three bits of
it for W0), or, for another word, what it was. -/
def Obligations.RegisterWordAfterWrite : Prop :=
  ∀ (v : FieldElement) (k j : Fin 6) (w : Word),
    regWord (setRegWord v k w) j = if j = k then (if k = 0 then w &&& 7 else w) else regWord v j

/-- R57: three zero bytes and the 21 bytes of R52, read four at a time big-endian, are W0 to W5. -/
def Obligations.RegisterWordsAreTheBigEndianBytes : Prop :=
  ∀ (v : FieldElement) (k : Fin 6),
    bytesToNat (((List.replicate 3 0 ++ toBytes v).drop (4 * k.val)).take 4) = (regWord v k).toNat

/-- The port read of a register word answers the bits of R57 (R58). After a port write of the word, its read
answers the written word (three bits of it for W0), and every other read of the window answers what it did (R59);
all else of the block is unchanged. -/
def Obligations.PortWriteOfARegisterWord : Prop :=
  ∀ (s : State) (i : Operand) (k : Fin 6) (w : Word),
    portReads (0x20 * i.val + 4 * k.val) (regWord (readField i s) k) s ∧
    ∃ t, handleEvent (.portWrite (0x20 * i.val + 4 * k.val) 32 w) s = .next t ∧
      portReads (0x20 * i.val + 4 * k.val) (if k = 0 then w &&& 7 else w) t ∧
      (∀ addr, addr < 0x400 → addr % 4 = 0 → addr ≠ 0x20 * i.val + 4 * k.val →
        ∃ v, portReads addr v s ∧ portReads addr v t) ∧
      sameFlags s t ∧ sameFault s t ∧ t.result = s.result ∧ t.pending = s.pending ∧ t.resets = s.resets

/-- `HWR` loads a register with its literal, bit 163 dropped, and leaves all else (R59, R94, R95). -/
def Obligations.HwrLoadsTheRegister : Prop :=
  ∀ (s : State) (i : Operand) (lit : BitVec 164),
    ∃ t, runEvents (hwr i lit) s = .next t ∧ readField i t = lit.setWidth 163 ∧
      sameFieldsBut [i] s t ∧ sameFlags s t ∧ sameFault s t ∧ t.result = s.result ∧
      t.pending = s.pending ∧ t.resets = s.resets

/-- R64: a read has no side effect, at any address: only the host's view gets the answer. -/
def Obligations.ReadsHaveNoSideEffect : Prop :=
  ∀ (s t : State) (addr bits : Nat), handleEvent (.portRead addr bits) s = .next t →
    sameBlock s t ∧ t.pending = s.pending ∧
      ∃ u, handleEvent (.portRead addr bits) t = .next u ∧ u.response = t.response

/-- R62: an access inside the window that is misaligned or not 32 bits wide gets the bus's error response,
and changes no state of the block. -/
def Obligations.MisalignedAccessGetsABusError : Prop :=
  ∀ (s : State) (addr bits : Nat) (v : Word), addr < 0x400 → (addr % 4 ≠ 0 ∨ bits ≠ 32) →
    handleEvent (.portRead addr bits) s = .next { s with response := some .busError } ∧
    handleEvent (.portWrite addr bits v) s = .next { s with response := some .busError }

/-- R61: `CMD` and `CTRL` read as zero; writes to `STATUS`, `ID` and `FAULTCMD` are ignored; neither faults. -/
def Obligations.WriteOnlyAndReadOnlyWords : Prop :=
  ∀ (s : State) (v : Word),
    handleEvent (.portRead 0x200 32) s = .next { s with response := some (.data 0) } ∧
    handleEvent (.portRead 0x208 32) s = .next { s with response := some (.data 0) } ∧
    handleEvent (.portWrite 0x204 32 v) s = .next { s with response := some .ack } ∧
    handleEvent (.portWrite 0x20C 32 v) s = .next { s with response := some .ack } ∧
    handleEvent (.portWrite 0x210 32 v) s = .next { s with response := some .ack }

/-- Reserved addresses inside the window read as zero and ignore writes (R56, R60). -/
def Obligations.ReservedAddresses : Prop :=
  ∀ (s : State) (addr : Nat) (v : Word), addr % 4 = 0 →
    ((addr < 0x200 ∧ (addr % 0x20 = 0x18 ∨ addr % 0x20 = 0x1C)) ∨ (0x214 ≤ addr ∧ addr < 0x400)) →
    handleEvent (.portRead addr 32) s = .next { s with response := some (.data 0) } ∧
    handleEvent (.portWrite addr 32 v) s = .next { s with response := some .ack }

/-- R31: `ID` reads as 0x000110A3: degree 163, sixteen registers, version 1; writes are ignored. -/
def Obligations.IdReadsItsConstant : Prop :=
  ∀ (s : State) (v : Word),
    handleEvent (.portRead 0x20C 32) s = .next { s with response := some (.data 0x000110A3) } ∧
    (0x000110A3#32).extractLsb' 0 8 = 163#8 ∧ (0x000110A3#32).extractLsb' 8 8 = 16#8 ∧
    (0x000110A3#32).extractLsb' 16 16 = 1#16 ∧
    handleEvent (.portWrite 0x20C 32 v) s = .next { s with response := some .ack }

/-- The layout of `STATUS` and the codes of its fields, reserved bits zero (R28), and the read that returns it. -/
def Obligations.StatusLayout : Prop :=
  ∀ s : State,
    (statusWord s).extractLsb' 0 1 = BitVec.ofBool s.fault ∧ (statusWord s).extractLsb' 1 3 = 0#3 ∧
    (statusWord s).extractLsb' 4 4 = (match s.fcause with | .none => 0#4 | .illegalCmd => 1#4 | .groupLaw => 2#4) ∧
    (statusWord s).extractLsb' 8 4 = (match s.result with | .ok => 0#4 | .noInverse => 1#4 | .noRoot => 2#4) ∧
    (statusWord s).extractLsb' 12 4 = 0#4 ∧ (statusWord s).extractLsb' 16 1 = BitVec.ofBool s.eq ∧
    (statusWord s).extractLsb' 17 1 = BitVec.ofBool s.lt ∧ (statusWord s).extractLsb' 18 14 = 0#14 ∧
    handleEvent (.portRead 0x204 32) s = .next { s with response := some (.data (statusWord s)) }

/-- R32: a write of `CTRL` with bit 0 set is the soft reset; with bit 0 clear it does nothing; bits 31:1 are
ignored; a read returns zero. -/
def Obligations.CtrlWord : Prop :=
  ∀ (s : State) (v : Word),
    (v.getLsbD 0 = true → handleEvent (.portWrite 0x208 32 v) s = runEvents [hreset] s ∧
      ∃ t, runEvents [hreset] s = .next t ∧ statusWord t = 0 ∧ t.faultCmd = 0 ∧ t.fault = false) ∧
    (v.getLsbD 0 = false → handleEvent (.portWrite 0x208 32 v) s = .next { s with response := some .ack }) ∧
    handleEvent (.portRead 0x208 32) s = .next { s with response := some (.data 0) }

/-- The hard reset and the soft reset have the same effect (R260); `STATUS` and `FAULTCMD` become zero (R261). That
the field registers come out of both equal is the model's choice (DESIGN CHOICE, unsafe: log entry 3), and so is that
the host's list of events stays (DESIGN CHOICE: log entry 4). -/
def Obligations.HardAndSoftResetAgree : Prop :=
  ∀ (s : State) (v : Word), v.getLsbD 0 = true →
    ∃ t u, handleEvent .hardReset s = .next t ∧ handleEvent (.portWrite 0x208 32 v) s = .next u ∧
      sameBlock t u ∧ statusWord t = 0 ∧ t.faultCmd = 0 ∧ t.pending = s.pending

/-- What reset leaves (R38): `STATUS` and `FAULTCMD` zero, `ID` constant; the host has done nothing yet. -/
def Obligations.ResetState : Prop :=
  readTarget .status State.reset = 0 ∧ readTarget .faultCmd State.reset = 0 ∧
  readTarget .id State.reset = 0x000110A3 ∧ State.reset.fault = false ∧ State.reset.fcause = .none ∧
  State.reset.result = .ok ∧ State.reset.eq = false ∧ State.reset.lt = false ∧ State.reset.pending = []

/-! ### Invariants -/

/-- The invariant holds after reset. -/
def Obligations.InvariantAtReset : Prop := Inv State.reset

/-- Every step keeps the invariant: the fault record is what faults leave (R28, R30, R232), and at most one flag is
set (R120, R167). -/
def Obligations.StepKeepsTheInvariant : Prop :=
  ∀ s t : State, Inv s → step s = .next t → Inv t

/-- R238: a run without reset events that ends with `FAULT = 0` began so: no command of it, from any point on,
faulted. -/
def Obligations.CleanRunsNeverFaulted : Prop :=
  ∀ (events : List HostEvent) (s t : State), (∀ e ∈ events, isResetEvent e = false) →
    runEvents events s = .next t → t.fault = false →
    ∀ done left m, events = done ++ left → runEvents done s = .next m → m.fault = false

/-! ### What every command does -/

/-- What no command touches: the registers it does not name, the host's events, the bus's answer and the count of
resets; every well-formed command completes or faults with a group-law fault. -/
def Obligations.CommandsLeaveTheRest : Prop :=
  ∀ (i : Instr) (s t : State), i.wellFormed = true → exec i s = .next t →
    sameHost s t ∧ sameFieldsBut (destinations i) s t ∧
      (sameFault s t ∨ faultedFrom s .groupLaw (encode i) t)

/-- R29: only `FCMP` and `PCMP` write the flags, and no command reads them. -/
def Obligations.FlagsAreWrittenByComparesAndReadByNone : Prop :=
  (∀ (i : Instr) (s t : State), isCompare i = false → exec i s = .next t → sameFlags s t) ∧
  (∀ (i : Instr) (s t : State) (e l : Bool), exec i s = .next t →
    ∃ u, exec i { s with eq := e, lt := l } = .next u ∧ { u with eq := t.eq, lt := t.lt } = t ∧
      (isCompare i = true → i.wellFormed = true → u = t))

/-- A point command with an odd index, or `FLDC` with a reserved index, faults `ILLEGAL_CMD` (R84, R85, R90). -/
def Obligations.IllFormedOperandsFault : Prop :=
  ∀ (i : Instr) (s : State), i.wellFormed = false →
    ∃ t, exec i s = .next t ∧ faultedFrom s .illegalCmd (encode i) t

/-- `NOP` sets `RESULT <- OK` and does nothing else (R101). -/
def Obligations.NopOnlySetsResult : Prop :=
  ∀ s : State, ∃ t, exec .nop s = .next t ∧ t.result = .ok ∧ frame [] s t

/-- `FMOV` copies (R102). -/
def Obligations.FmovCopies : Prop :=
  ∀ (d a : Operand) (s : State), ∃ t, exec (.fmov d a) s = .next t ∧
    readField d t = readField a s ∧ t.result = .ok ∧ frame [d] s t

/-- `FLDC` loads the constants of R34. -/
def Obligations.FldcLoadsTheConstants : Prop :=
  ∀ (d c : Operand) (s : State) (v : FieldElement),
    (c, v) ∈ [(0, 0), (1, 1), (2, 1), (3, Config.bConst), (4, Config.gxConst), (5, Config.gyConst),
      (6, Config.nConst)] →
    ∃ t, exec (.fldc d c) s = .next t ∧ readField d t = v ∧ t.result = .ok ∧ frame [d] s t

/-- `FADD` is exclusive or, bit by bit (R105). -/
def Obligations.FaddIsExclusiveOr : Prop :=
  ∀ (d a b : Operand) (s : State), ∃ t, exec (.fadd d a b) s = .next t ∧
    (∀ n : Nat, (readField d t).getLsbD n = ((readField a s).getLsbD n ^^ (readField b s).getLsbD n)) ∧
    t.result = .ok ∧ frame [d] s t

/-- `FMUL` writes the field product, `FPOW` the power by the scalar `int(F[b])`, `FTR` the trace and `FHTR` the
half-trace, whatever the trace (R106, R108, R114, R117). -/
def Obligations.FieldFunctionsWriteTheirValue : Prop :=
  ∀ (d a b : Operand) (s : State),
    let writes := fun (i : Instr) (v : FieldElement) =>
      ∃ t, exec i s = .next t ∧ readField d t = v ∧ t.result = .ok ∧ frame [d] s t
    writes (.fmul d a b) (feMul (readField a s) (readField b s)) ∧
    writes (.fpow d a b) (fePow (readField a s) (readField b s).toNat) ∧
    writes (.ftr d a) (feTrace (readField a s)) ∧
    writes (.fhtr d a) (feHalfTrace (readField a s))

/-- `FINV` of a nonzero element writes its inverse; of zero it reports `NO_INVERSE` and writes nothing (R111). -/
def Obligations.FinvInvertsOrReports : Prop :=
  ∀ (d a : Operand) (s : State), ∃ t, exec (.finv d a) s = .next t ∧
    if readField a s = 0 then t.result = .noInverse ∧ frame [] s t
    else readField d t = feInv (readField a s) ∧ t.result = .ok ∧ frame [d] s t

/-- `FCMP` sets `EQ` and `LT` by the order of unsigned integers, and writes no register (R119, R120). -/
def Obligations.FcmpSetsTheFlags : Prop :=
  ∀ (a b : Operand) (s : State), ∃ t, exec (.fcmp a b) s = .next t ∧
    (t.eq = true ↔ readField a s = readField b s) ∧
    (t.lt = true ↔ (readField a s).toNat < (readField b s).toNat) ∧
    t.result = .ok ∧ sameFault s t ∧ sameHost s t ∧ sameFieldsBut [] s t

/-- `QSOLVE`, by the three cases of R140: `u` is `F[a]`, `w` is `F[b]`, `v = w · u^(-2)`. -/
def Obligations.QsolveByCases : Prop :=
  ∀ (d a b : Operand) (s : State),
    let u := readField a s
    let w := readField b s
    let v := feMul w (feMul (feInv u) (feInv u))
    ∃ t, exec (.qsolve d a b) s = .next t ∧
      if u = 0 then readField d t = fePow w (2 ^ 162) ∧ t.result = .ok ∧ frame [d] s t
      else if w = 0 then readField d t = 0 ∧ t.result = .ok ∧ frame [d] s t
      else if feTrace v = 1 then t.result = .noRoot ∧ frame [] s t
      else readField d t = feMul (feHalfTrace v) u ∧ t.result = .ok ∧ frame [d] s t

/-- `PFROMX` writes `(u, z)` where the solver finds `z`, and reports `NO_ROOT` where it finds none (R142, R143). -/
def Obligations.PfromxWritesThePoint : Prop :=
  ∀ (d a : Operand) (s : State), d.isEven = true →
    let u := readField a s
    let w := feAdd (feAdd (feMul (feMul u u) u) (feMul u u)) Config.bConst
    ∃ t, exec (.pfromx d a) s = .next t ∧
      match qsolve u w with
      | .solved z => readField d t = u ∧ readField (pairY d) t = z ∧ t.result = .ok ∧ frame [d, pairY d] s t
      | .noRoot => t.result = .noRoot ∧ frame [] s t

/-- `PADD` writes the sum, by the cases of R161 in their order (R164). -/
def Obligations.PaddByCases : Prop :=
  ∀ (d a b : Operand) (s : State), d.isEven = true → a.isEven = true → b.isEven = true →
    let x1 := readField a s
    let y1 := readField (pairY a) s
    let x2 := readField b s
    let y2 := readField (pairY b) s
    let l := feMul (feAdd y1 y2) (feInv (feAdd x1 x2))
    let x3 := feAdd (feAdd (feAdd (feAdd (feMul l l) l) x1) x2) 1
    let y3 := feAdd (feAdd (feMul l (feAdd x1 x3)) x3) y1
    let l' := feAdd x1 (feMul y1 (feInv x1))
    let x3' := feAdd (feAdd (feMul l' l') l') 1
    let y3' := feAdd (feMul x1 x1) (feMul (feAdd l' 1) x3')
    let writes := fun (t : State) (x y : FieldElement) =>
      readField d t = x ∧ readField (pairY d) t = y ∧ t.result = .ok ∧ frame [d, pairY d] s t
    ∃ t, exec (.padd d a b) s = .next t ∧
      if x1 = 0 ∧ y1 = 0 then writes t x2 y2
      else if x2 = 0 ∧ y2 = 0 then writes t x1 y1
      else if x1 = x2 ∧ y2 = feAdd x1 y1 then writes t 0 0
      else if x1 ≠ x2 then writes t x3 y3
      else if y1 = y2 then writes t x3' y3'
      else faultedFrom s .groupLaw (encode (.padd d a b)) t

/-- `PDBL` writes the double (R162, R165). -/
def Obligations.PdblWritesTheDouble : Prop :=
  ∀ (d a : Operand) (s : State), d.isEven = true → a.isEven = true →
    let x1 := readField a s
    let y1 := readField (pairY a) s
    let l := feAdd x1 (feMul y1 (feInv x1))
    let x3 := feAdd (feAdd (feMul l l) l) 1
    let y3 := feAdd (feMul x1 x1) (feMul (feAdd l 1) x3)
    ∃ t, exec (.pdbl d a) s = .next t ∧
      readField d t = (if x1 = 0 then 0 else x3) ∧ readField (pairY d) t = (if x1 = 0 then 0 else y3) ∧
      t.result = .ok ∧ frame [d, pairY d] s t

/-- `PNEG` writes `(x, x ⊕ y)` (R163, R166). -/
def Obligations.PnegWritesTheNegative : Prop :=
  ∀ (d a : Operand) (s : State), d.isEven = true → a.isEven = true →
    ∃ t, exec (.pneg d a) s = .next t ∧ readField d t = readField a s ∧
      readField (pairY d) t = readField a s ^^^ readField (pairY a) s ∧
      t.result = .ok ∧ frame [d, pairY d] s t

/-- `PCMP` sets `EQ` by both coordinates, clears `LT`, and writes no register (R167). -/
def Obligations.PcmpSetsTheFlags : Prop :=
  ∀ (a b : Operand) (s : State), a.isEven = true → b.isEven = true →
    ∃ t, exec (.pcmp a b) s = .next t ∧
      (t.eq = true ↔ readField a s = readField b s ∧ readField (pairY a) s = readField (pairY b) s) ∧
      t.lt = false ∧ t.result = .ok ∧ sameFault s t ∧ sameHost s t ∧ sameFieldsBut [] s t

/-- `SMUL` writes the multiple of `P[a]` by `int(F[b])`, or faults if an addition inside is unreachable (R191). -/
def Obligations.SmulWritesTheMultiple : Prop :=
  ∀ (d a b : Operand) (s : State), d.isEven = true → a.isEven = true →
    ∃ t, exec (.smul d a b) s = .next t ∧
      match scalarMul ⟨readField a s, readField (pairY a) s⟩ (readField b s).toNat with
      | .point p => readField d t = p.x ∧ readField (pairY d) t = p.y ∧ t.result = .ok ∧ frame [d, pairY d] s t
      | .unreachable => faultedFrom s .groupLaw (encode (.smul d a b)) t

/-! ### Field arithmetic -/

/-- R104: `fe_mul(a, b)` is the one remainder, of degree below 163, of the carry-less product on division by
the reduction polynomial. -/
def Obligations.ProductIsTheRemainder : Prop :=
  ∀ a b r : FieldElement,
    r = feMul a b ↔ ∃ q : Nat, carryless a.toNat b.toNat = carryless q fPoly ^^^ r.toNat

/-- The product commutes, associates, distributes over the sum, and has unit 1 and zero 0 (R106, R121). -/
def Obligations.ProductLaws : Prop :=
  (∀ a b, feMul a b = feMul b a) ∧ (∀ a b c, feMul (feMul a b) c = feMul a (feMul b c)) ∧
  (∀ a b c, feMul a (feAdd b c) = feAdd (feMul a b) (feMul a c)) ∧
  (∀ a, feMul a 1 = a) ∧ (∀ a, feMul a 0 = 0)

/-- R107: the recursion of `fe_pow`; it is the product of `k` copies of `a`. -/
def Obligations.PowerIsRepeatedProduct : Prop :=
  (∀ a, fePow a 0 = 1) ∧
  (∀ a j, 1 ≤ j → fePow a (2 * j) = fePow (feMul a a) j) ∧
  (∀ a j, fePow a (2 * j + 1) = feMul a (fePow (feMul a a) j)) ∧
  (∀ a k, fePow a k = copies a k) ∧ fePow 0 0 = 1 ∧ (∀ k, 1 ≤ k → fePow 0 k = 0)

/-- R110: `fe_inv(a)` is the unique element whose product with a nonzero `a` is 1. -/
def Obligations.InverseIsTheInverse : Prop :=
  ∀ a : FieldElement, a ≠ 0 →
    feMul a (feInv a) = 1 ∧ (∀ g, feMul a g = 1 → g = feInv a) ∧ fePow a (2 ^ 163 - 2) = feInv a

/-- The trace is the sum of `a^(2^i)`, is 0 or 1, is additive, and is `a[0] ⊕ a[157]` (R113). -/
def Obligations.TraceIsAdditiveBit : Prop :=
  (∀ a, feTrace a = frobeniusSum 1 a 162) ∧ (∀ a, feTrace a = 0 ∨ feTrace a = 1) ∧
  (∀ a b, feTrace (feAdd a b) = feAdd (feTrace a) (feTrace b)) ∧ feTrace 0 = 0 ∧ feTrace 1 = 1 ∧
  (∀ a, feTrace a = 1 ↔ (a.getLsbD 0 ^^ a.getLsbD 157) = true)

/-- The half-trace is the sum of `a^(4^i)`, is additive, and solves `z² + z = a + Tr(a)` (R116). -/
def Obligations.HalfTraceSolvesTheQuadratic : Prop :=
  (∀ a, feHalfTrace a = frobeniusSum 2 a 81) ∧
  (∀ a b, feHalfTrace (feAdd a b) = feAdd (feHalfTrace a) (feHalfTrace b)) ∧
  (∀ a, feAdd (feSquare (feHalfTrace a)) (feHalfTrace a) = feAdd a (feTrace a))

/-- What the solver returns is a root, and it returns none only where there is none (R140). -/
def Obligations.SolverIsSoundAndComplete : Prop :=
  ∀ u w : FieldElement,
    (∀ z, qsolve u w = .solved z → feAdd (feMul z z) (feMul u z) = w) ∧
    (qsolve u w = .noRoot → ∀ z, feAdd (feMul z z) (feMul u z) ≠ w)

/-- The point `PFROMX` writes is on the curve (R143). -/
def Obligations.PfromxPointIsOnTheCurve : Prop :=
  ∀ (d a : Operand) (s t : State), d.isEven = true → exec (.pfromx d a) s = .next t → t.result = .ok →
    onCurve Config.bConst (readPoint d t)

/-! ### The group law -/

/-- A sum is unreachable exactly when the x-coordinates agree, neither operand is the identity, and the second y is
neither the first nor its negative's (R161, R234); and `PADD` of a pair with itself is its double (R165). -/
def Obligations.UnreachableSumsExactly : Prop :=
  (∀ p q : Point, pointAdd p q = .unreachable ↔
    p.x = q.x ∧ p ≠ identity ∧ q ≠ identity ∧ q.y ≠ p.y ∧ q.y ≠ feAdd p.x p.y) ∧
  (∀ p : Point, pointAdd p p = .point (pointDouble p))

/-- Laws of addition on all pairs: it commutes, the identity is neutral, a pair and its negative add to the
identity (R161, R163, R164). -/
def Obligations.AdditionLaws : Prop :=
  (∀ p q : Point, pointAdd p q = pointAdd q p) ∧
  (∀ p : Point, pointAdd p identity = .point p ∧ pointAdd identity p = .point p) ∧
  (∀ p : Point, pointAdd p (pointNeg p) = .point identity)

/-- Sums and doubles of points of one curve are points of that curve, and no sum of them is unreachable (R168). -/
def Obligations.CurveIsClosedUnderAddition : Prop :=
  ∀ (bc : FieldElement) (p q : Point), validPoint bc p → validPoint bc q →
    validPoint bc (pointDouble p) ∧ ∃ r, pointAdd p q = .point r ∧ validPoint bc r

/-- The multiples of R190, of every pair: by 0, 1 and 2; of the identity; by an even scalar as a multiple of the
double; and by every scalar with top bit `2^n`, as the multiple by its other bits plus `p` doubled `n` times. -/
def Obligations.SmallMultiples : Prop :=
  ∀ p : Point, scalarMul p 0 = .point identity ∧ scalarMul p 1 = .point p ∧
    scalarMul p 2 = .point (pointDouble p) ∧ (∀ k, scalarMul identity k = .point identity) ∧
    (∀ k, scalarMul p (2 * k) = scalarMul (pointDouble p) k) ∧
    (∀ n k, k < 2 ^ n → scalarMul p (2 ^ n + k) = addTo (scalarMul p k) (doubled p n))

/-- Every multiple of a point of a curve is a point of that curve, and `SMUL` of one never faults: it completes, and
the pair it writes is of that curve (R191). -/
def Obligations.MultiplesStayOnTheCurve : Prop :=
  (∀ (bc : FieldElement) (p : Point) (k : Nat), validPoint bc p →
    ∃ r, scalarMul p k = .point r ∧ validPoint bc r) ∧
  (∀ (bc : FieldElement) (d a b : Operand) (s : State), d.isEven = true → a.isEven = true →
    validPoint bc (readPoint a s) →
    ∃ t, exec (.smul d a b) s = .next t ∧ t.result = .ok ∧ sameFault s t ∧ validPoint bc (readPoint d t))

/-! ### The host's encodings -/

/-- The 21-byte string of a field element decodes to it, and a digest maps to its integer modulo 2^163
(R52, R54, R203). -/
def Obligations.ByteEncodings : Prop :=
  (∀ v : FieldElement, (toBytes v).length = 21 ∧ fromBytes (toBytes v) = some v) ∧
  (∀ digest : List (BitVec 8), fieldElementFromDigest digest = BitVec.ofNat 163 (bytesToNat digest))

/-! ### Associativity -/

/-- On points of one curve addition is associative (R168), and so multiples add: `(j + k)·P = j·P + k·P` (R190). -/
def Obligations.CurveAdditionAssociates : Prop :=
  ∀ (bc : FieldElement) (p q r : Point), validPoint bc p → validPoint bc q → validPoint bc r →
    (∃ pq qr, pointAdd p q = .point pq ∧ pointAdd q r = .point qr ∧ pointAdd pq r = pointAdd p qr) ∧
    (∀ j k, ∃ pj pk, scalarMul p j = .point pj ∧ scalarMul p k = .point pk ∧
      scalarMul p (j + k) = pointAdd pj pk)
end

