-- ==== Sys2Proof/Laws/Host.lean ====
section
/-! SUPPORT. What the operations on an instance of the signature scheme can answer (R204 to R209). -/

namespace Sys2Proof.Machine

/-- A presignature is read off a block with no fault: `e` as drawn into its register, `fe` the x of `R`. -/
theorem presignature_eq_some {k : SetupRegs} {draws : List FieldElement} {st t : State} {e fe : FieldElement}
    (h : presignature k draws st = some ((e, fe), t)) :
    presign k.g k.r k.e k.z draws st = some t ∧ t.fault = false ∧ e = readField k.e t ∧ fe = readField k.r t := by
  unfold presignature at h
  split at h
  · simp at h
  · next u hu =>
    split at h
    · simp at h
    · next hf =>
      simp only [Option.some.injEq, Prod.mk.injEq] at h
      obtain ⟨⟨rfl, rfl⟩, rfl⟩ := h
      exact ⟨hu, by simpa using hf, rfl, rfl⟩

/-- Construction makes an instance only of a scalar in its range, and it holds that scalar (R204). -/
theorem construct_eq_some {k : SetupRegs} {d : Nat} {draws : List FieldElement} {st t : State}
    {i : SignatureScheme} (h : construct k d draws st = some (i, t)) :
    0 < i.d ∧ i.d < Config.nConst.toNat ∧ i.d = d ∧
      ∃ u, presignature k draws u = some ((i.e, i.fe), t) ∧ i.q = readPoint k.q u := by
  unfold construct at h
  split at h
  · next hd =>
    split at h
    · simp at h
    · next u _ =>
      obtain ⟨⟨⟨e, fe⟩, t'⟩, hp, hi⟩ := Option.map_eq_some_iff.mp h
      simp only [Prod.mk.injEq] at hi
      obtain ⟨rfl, rfl⟩ := hi
      simp only [validScalar, Bool.and_eq_true, decide_eq_true_eq] at hd
      exact ⟨hd.1, hd.2, rfl, u, hp, rfl⟩
  · simp at h

/-- A new presignature leaves the private scalar and the public point (R204, R208). -/
theorem resamplePresignature_eq_some {k : SetupRegs} {i j : SignatureScheme} {draws : List FieldElement}
    {st t : State} (h : resamplePresignature k i draws st = some (j, t)) :
    j.d = i.d ∧ j.q = i.q ∧ presignature k draws st = some ((j.e, j.fe), t) := by
  obtain ⟨⟨⟨e, fe⟩, t'⟩, hp, hi⟩ := Option.map_eq_some_iff.mp h
  simp only [Prod.mk.injEq] at hi
  obtain ⟨rfl, rfl⟩ := hi
  exact ⟨rfl, rfl, hp⟩

/-- A signature is what `sign` leaves in its result registers, read off a block with no fault (R206, R266). -/
theorem signWith_eq_some {g : SignRegs} {i : SignatureScheme} {h r s : FieldElement} {st u : State}
    (hs : signWith g i h st = some ((r, s), u)) :
    u.fault = false ∧ r = readField g.r u ∧ s = readField g.s u ∧ ∃ t, sign g t = some u := by
  unfold signWith at hs
  split at hs
  · simp at hs
  · next t _ =>
    split at hs
    · simp at hs
    · next v hv =>
      split at hs
      · simp at hs
      · next hf =>
        simp only [Option.some.injEq, Prod.mk.injEq] at hs
        obtain ⟨⟨rfl, rfl⟩, rfl⟩ := hs
        exact ⟨by simpa using hf, rfl, rfl, t, hv⟩

end Sys2Proof.Machine
end

