-- ==== Sys2Proof/Laws/State.lean ====
section
/-! SUPPORT. Each update of the state, field by field: what it changes and that it changes nothing else; and
reads of registers after them. -/

namespace Sys2Proof.Machine

variable (s : State)

/-! ### `writeField` -/

@[simp] theorem writeField_fregs (i : Operand) (v : FieldElement) : (writeField i v s).fregs = s.fregs.set i v := rfl
@[simp] theorem writeField_fault (i : Operand) (v : FieldElement) : (writeField i v s).fault = s.fault := rfl
@[simp] theorem writeField_fcause (i : Operand) (v : FieldElement) : (writeField i v s).fcause = s.fcause := rfl
@[simp] theorem writeField_result (i : Operand) (v : FieldElement) : (writeField i v s).result = s.result := rfl
@[simp] theorem writeField_eq (i : Operand) (v : FieldElement) : (writeField i v s).eq = s.eq := rfl
@[simp] theorem writeField_lt (i : Operand) (v : FieldElement) : (writeField i v s).lt = s.lt := rfl
@[simp] theorem writeField_faultCmd (i : Operand) (v : FieldElement) : (writeField i v s).faultCmd = s.faultCmd := rfl
@[simp] theorem writeField_pending (i : Operand) (v : FieldElement) : (writeField i v s).pending = s.pending := rfl
@[simp] theorem writeField_response (i : Operand) (v : FieldElement) : (writeField i v s).response = s.response := rfl
@[simp] theorem writeField_resets (i : Operand) (v : FieldElement) : (writeField i v s).resets = s.resets := rfl

/-! ### `writePoint` -/

@[simp] theorem writePoint_fregs (e : Operand) (p : Point) : (writePoint e p s).fregs = (s.fregs.set e p.x).set (pairY e) p.y := rfl
@[simp] theorem writePoint_fault (e : Operand) (p : Point) : (writePoint e p s).fault = s.fault := rfl
@[simp] theorem writePoint_fcause (e : Operand) (p : Point) : (writePoint e p s).fcause = s.fcause := rfl
@[simp] theorem writePoint_result (e : Operand) (p : Point) : (writePoint e p s).result = s.result := rfl
@[simp] theorem writePoint_eq (e : Operand) (p : Point) : (writePoint e p s).eq = s.eq := rfl
@[simp] theorem writePoint_lt (e : Operand) (p : Point) : (writePoint e p s).lt = s.lt := rfl
@[simp] theorem writePoint_faultCmd (e : Operand) (p : Point) : (writePoint e p s).faultCmd = s.faultCmd := rfl
@[simp] theorem writePoint_pending (e : Operand) (p : Point) : (writePoint e p s).pending = s.pending := rfl
@[simp] theorem writePoint_response (e : Operand) (p : Point) : (writePoint e p s).response = s.response := rfl
@[simp] theorem writePoint_resets (e : Operand) (p : Point) : (writePoint e p s).resets = s.resets := rfl

/-! ### `setFlags` -/

@[simp] theorem setFlags_fregs (x y : Bool) : (setFlags x y s).fregs = s.fregs := rfl
@[simp] theorem setFlags_fault (x y : Bool) : (setFlags x y s).fault = s.fault := rfl
@[simp] theorem setFlags_fcause (x y : Bool) : (setFlags x y s).fcause = s.fcause := rfl
@[simp] theorem setFlags_result (x y : Bool) : (setFlags x y s).result = s.result := rfl
@[simp] theorem setFlags_eq (x y : Bool) : (setFlags x y s).eq = x := rfl
@[simp] theorem setFlags_lt (x y : Bool) : (setFlags x y s).lt = y := rfl
@[simp] theorem setFlags_faultCmd (x y : Bool) : (setFlags x y s).faultCmd = s.faultCmd := rfl
@[simp] theorem setFlags_pending (x y : Bool) : (setFlags x y s).pending = s.pending := rfl
@[simp] theorem setFlags_response (x y : Bool) : (setFlags x y s).response = s.response := rfl
@[simp] theorem setFlags_resets (x y : Bool) : (setFlags x y s).resets = s.resets := rfl

/-! ### `compareFields` -/

@[simp] theorem compareFields_fregs (a b : FieldElement) : (compareFields a b s).fregs = s.fregs := rfl
@[simp] theorem compareFields_fault (a b : FieldElement) : (compareFields a b s).fault = s.fault := rfl
@[simp] theorem compareFields_fcause (a b : FieldElement) : (compareFields a b s).fcause = s.fcause := rfl
@[simp] theorem compareFields_result (a b : FieldElement) : (compareFields a b s).result = s.result := rfl
@[simp] theorem compareFields_eq (a b : FieldElement) : (compareFields a b s).eq = (a == b) := rfl
@[simp] theorem compareFields_lt (a b : FieldElement) : (compareFields a b s).lt = feLt a b := rfl
@[simp] theorem compareFields_faultCmd (a b : FieldElement) : (compareFields a b s).faultCmd = s.faultCmd := rfl
@[simp] theorem compareFields_pending (a b : FieldElement) : (compareFields a b s).pending = s.pending := rfl
@[simp] theorem compareFields_response (a b : FieldElement) : (compareFields a b s).response = s.response := rfl
@[simp] theorem compareFields_resets (a b : FieldElement) : (compareFields a b s).resets = s.resets := rfl

/-! ### `comparePoints` -/

@[simp] theorem comparePoints_fregs (p q : Point) : (comparePoints p q s).fregs = s.fregs := rfl
@[simp] theorem comparePoints_fault (p q : Point) : (comparePoints p q s).fault = s.fault := rfl
@[simp] theorem comparePoints_fcause (p q : Point) : (comparePoints p q s).fcause = s.fcause := rfl
@[simp] theorem comparePoints_result (p q : Point) : (comparePoints p q s).result = s.result := rfl
@[simp] theorem comparePoints_eq (p q : Point) : (comparePoints p q s).eq = (p.x == q.x && p.y == q.y) := rfl
@[simp] theorem comparePoints_lt (p q : Point) : (comparePoints p q s).lt = false := rfl
@[simp] theorem comparePoints_faultCmd (p q : Point) : (comparePoints p q s).faultCmd = s.faultCmd := rfl
@[simp] theorem comparePoints_pending (p q : Point) : (comparePoints p q s).pending = s.pending := rfl
@[simp] theorem comparePoints_response (p q : Point) : (comparePoints p q s).response = s.response := rfl
@[simp] theorem comparePoints_resets (p q : Point) : (comparePoints p q s).resets = s.resets := rfl

/-! ### `complete` -/

@[simp] theorem complete_fregs : (complete s).fregs = s.fregs := rfl
@[simp] theorem complete_fault : (complete s).fault = s.fault := rfl
@[simp] theorem complete_fcause : (complete s).fcause = s.fcause := rfl
@[simp] theorem complete_result : (complete s).result = .ok := rfl
@[simp] theorem complete_eq : (complete s).eq = s.eq := rfl
@[simp] theorem complete_lt : (complete s).lt = s.lt := rfl
@[simp] theorem complete_faultCmd : (complete s).faultCmd = s.faultCmd := rfl
@[simp] theorem complete_pending : (complete s).pending = s.pending := rfl
@[simp] theorem complete_response : (complete s).response = s.response := rfl
@[simp] theorem complete_resets : (complete s).resets = s.resets := rfl

/-! ### `degenerate` -/

@[simp] theorem degenerate_fregs (r : ResultCode) : (degenerate r s).fregs = s.fregs := rfl
@[simp] theorem degenerate_fault (r : ResultCode) : (degenerate r s).fault = s.fault := rfl
@[simp] theorem degenerate_fcause (r : ResultCode) : (degenerate r s).fcause = s.fcause := rfl
@[simp] theorem degenerate_result (r : ResultCode) : (degenerate r s).result = r := rfl
@[simp] theorem degenerate_eq (r : ResultCode) : (degenerate r s).eq = s.eq := rfl
@[simp] theorem degenerate_lt (r : ResultCode) : (degenerate r s).lt = s.lt := rfl
@[simp] theorem degenerate_faultCmd (r : ResultCode) : (degenerate r s).faultCmd = s.faultCmd := rfl
@[simp] theorem degenerate_pending (r : ResultCode) : (degenerate r s).pending = s.pending := rfl
@[simp] theorem degenerate_response (r : ResultCode) : (degenerate r s).response = s.response := rfl
@[simp] theorem degenerate_resets (r : ResultCode) : (degenerate r s).resets = s.resets := rfl

/-! ### `raiseFault` -/

@[simp] theorem raiseFault_fregs (c : FaultCause) (w : Word) : (raiseFault c w s).fregs = s.fregs := rfl
@[simp] theorem raiseFault_fault (c : FaultCause) (w : Word) : (raiseFault c w s).fault = true := rfl
@[simp] theorem raiseFault_fcause (c : FaultCause) (w : Word) : (raiseFault c w s).fcause = c := rfl
@[simp] theorem raiseFault_result (c : FaultCause) (w : Word) : (raiseFault c w s).result = s.result := rfl
@[simp] theorem raiseFault_eq (c : FaultCause) (w : Word) : (raiseFault c w s).eq = s.eq := rfl
@[simp] theorem raiseFault_lt (c : FaultCause) (w : Word) : (raiseFault c w s).lt = s.lt := rfl
@[simp] theorem raiseFault_faultCmd (c : FaultCause) (w : Word) : (raiseFault c w s).faultCmd = w := rfl
@[simp] theorem raiseFault_pending (c : FaultCause) (w : Word) : (raiseFault c w s).pending = s.pending := rfl
@[simp] theorem raiseFault_response (c : FaultCause) (w : Word) : (raiseFault c w s).response = s.response := rfl
@[simp] theorem raiseFault_resets (c : FaultCause) (w : Word) : (raiseFault c w s).resets = s.resets := rfl

/-! ### `resetBlock` -/

@[simp] theorem resetBlock_fregs : (resetBlock s).fregs = Vector.ofFn fun i => Config.resetField s.resets i.val s.fregs := rfl
@[simp] theorem resetBlock_fault : (resetBlock s).fault = false := rfl
@[simp] theorem resetBlock_fcause : (resetBlock s).fcause = .none := rfl
@[simp] theorem resetBlock_result : (resetBlock s).result = .ok := rfl
@[simp] theorem resetBlock_eq : (resetBlock s).eq = false := rfl
@[simp] theorem resetBlock_lt : (resetBlock s).lt = false := rfl
@[simp] theorem resetBlock_faultCmd : (resetBlock s).faultCmd = 0 := rfl
@[simp] theorem resetBlock_pending : (resetBlock s).pending = s.pending := rfl
@[simp] theorem resetBlock_response : (resetBlock s).response = s.response := rfl
@[simp] theorem resetBlock_resets : (resetBlock s).resets = s.resets + 1 := rfl

/-! ### `respond` -/

@[simp] theorem respond_fregs (r : BusResponse) : (respond r s).fregs = s.fregs := rfl
@[simp] theorem respond_fault (r : BusResponse) : (respond r s).fault = s.fault := rfl
@[simp] theorem respond_fcause (r : BusResponse) : (respond r s).fcause = s.fcause := rfl
@[simp] theorem respond_result (r : BusResponse) : (respond r s).result = s.result := rfl
@[simp] theorem respond_eq (r : BusResponse) : (respond r s).eq = s.eq := rfl
@[simp] theorem respond_lt (r : BusResponse) : (respond r s).lt = s.lt := rfl
@[simp] theorem respond_faultCmd (r : BusResponse) : (respond r s).faultCmd = s.faultCmd := rfl
@[simp] theorem respond_pending (r : BusResponse) : (respond r s).pending = s.pending := rfl
@[simp] theorem respond_response (r : BusResponse) : (respond r s).response = some r := rfl
@[simp] theorem respond_resets (r : BusResponse) : (respond r s).resets = s.resets := rfl

/-! ### `takeEvent` -/

@[simp] theorem takeEvent_fregs (es : List HostEvent) : (takeEvent es s).fregs = s.fregs := rfl
@[simp] theorem takeEvent_fault (es : List HostEvent) : (takeEvent es s).fault = s.fault := rfl
@[simp] theorem takeEvent_fcause (es : List HostEvent) : (takeEvent es s).fcause = s.fcause := rfl
@[simp] theorem takeEvent_result (es : List HostEvent) : (takeEvent es s).result = s.result := rfl
@[simp] theorem takeEvent_eq (es : List HostEvent) : (takeEvent es s).eq = s.eq := rfl
@[simp] theorem takeEvent_lt (es : List HostEvent) : (takeEvent es s).lt = s.lt := rfl
@[simp] theorem takeEvent_faultCmd (es : List HostEvent) : (takeEvent es s).faultCmd = s.faultCmd := rfl
@[simp] theorem takeEvent_pending (es : List HostEvent) : (takeEvent es s).pending = es := rfl
@[simp] theorem takeEvent_response (es : List HostEvent) : (takeEvent es s).response = s.response := rfl
@[simp] theorem takeEvent_resets (es : List HostEvent) : (takeEvent es s).resets = s.resets := rfl

/-! ### `issueNext` -/

@[simp] theorem issueNext_fregs (w : Word) : (issueNext w s).fregs = s.fregs := rfl
@[simp] theorem issueNext_fault (w : Word) : (issueNext w s).fault = s.fault := rfl
@[simp] theorem issueNext_fcause (w : Word) : (issueNext w s).fcause = s.fcause := rfl
@[simp] theorem issueNext_result (w : Word) : (issueNext w s).result = s.result := rfl
@[simp] theorem issueNext_eq (w : Word) : (issueNext w s).eq = s.eq := rfl
@[simp] theorem issueNext_lt (w : Word) : (issueNext w s).lt = s.lt := rfl
@[simp] theorem issueNext_faultCmd (w : Word) : (issueNext w s).faultCmd = s.faultCmd := rfl
@[simp] theorem issueNext_pending (w : Word) : (issueNext w s).pending = cmdWrite w :: s.pending := rfl
@[simp] theorem issueNext_response (w : Word) : (issueNext w s).response = s.response := rfl
@[simp] theorem issueNext_resets (w : Word) : (issueNext w s).resets = s.resets := rfl

/-! ### Reads -/

@[simp] theorem readField_writeField (i : Operand) (v : FieldElement) :
    readField i (writeField i v s) = v := by
  simp [readField]

theorem readField_writeField_of_ne {i j : Operand} (h : j ≠ i) (v : FieldElement) :
    readField j (writeField i v s) = readField j s := by
  have hv : i.val ≠ j.val := fun e => h (Fin.ext e.symm)
  simp [readField, hv]

theorem pairY_ne (e : Operand) : pairY e ≠ e := by
  revert e; decide

@[simp] theorem readPoint_writePoint (e : Operand) (p : Point) :
    readPoint e (writePoint e p s) = p := by
  simp [readPoint, writePoint, readField_writeField_of_ne _ (pairY_ne e).symm]

theorem readField_writePoint_of_ne {e j : Operand} (hx : j ≠ e) (hy : j ≠ pairY e) (p : Point) :
    readField j (writePoint e p s) = readField j s := by
  rw [writePoint, readField_writeField_of_ne _ hy, readField_writeField_of_ne _ hx]

/-- A read of a register sees only the register file. -/
theorem readField_congr {s t : State} (h : t.fregs = s.fregs) (i : Operand) :
    readField i t = readField i s := by
  rw [readField, readField, h]

@[simp] theorem readField_setFlags (i : Operand) (x y : Bool) : readField i (setFlags x y s) = readField i s := rfl
@[simp] theorem readField_compareFields (i : Operand) (a b : FieldElement) : readField i (compareFields a b s) = readField i s := rfl
@[simp] theorem readField_comparePoints (i : Operand) (p q : Point) : readField i (comparePoints p q s) = readField i s := rfl
@[simp] theorem readField_complete (i : Operand) : readField i (complete s) = readField i s := rfl
@[simp] theorem readField_degenerate (i : Operand) (r : ResultCode) : readField i (degenerate r s) = readField i s := rfl
@[simp] theorem readField_raiseFault (i : Operand) (c : FaultCause) (w : Word) : readField i (raiseFault c w s) = readField i s := rfl
@[simp] theorem readField_respond (i : Operand) (r : BusResponse) : readField i (respond r s) = readField i s := rfl
@[simp] theorem readField_takeEvent (i : Operand) (es : List HostEvent) : readField i (takeEvent es s) = readField i s := rfl
@[simp] theorem readField_issueNext (i : Operand) (w : Word) : readField i (issueNext w s) = readField i s := rfl
@[simp] theorem readPoint_setFlags (e : Operand) (x y : Bool) : readPoint e (setFlags x y s) = readPoint e s := rfl
@[simp] theorem readScalar_setFlags (i : Operand) (x y : Bool) : readScalar i (setFlags x y s) = readScalar i s := rfl
@[simp] theorem readPoint_compareFields (e : Operand) (a b : FieldElement) : readPoint e (compareFields a b s) = readPoint e s := rfl
@[simp] theorem readScalar_compareFields (i : Operand) (a b : FieldElement) : readScalar i (compareFields a b s) = readScalar i s := rfl
@[simp] theorem readPoint_comparePoints (e : Operand) (p q : Point) : readPoint e (comparePoints p q s) = readPoint e s := rfl
@[simp] theorem readScalar_comparePoints (i : Operand) (p q : Point) : readScalar i (comparePoints p q s) = readScalar i s := rfl
@[simp] theorem readPoint_complete (e : Operand) : readPoint e (complete s) = readPoint e s := rfl
@[simp] theorem readScalar_complete (i : Operand) : readScalar i (complete s) = readScalar i s := rfl
@[simp] theorem readPoint_degenerate (e : Operand) (r : ResultCode) : readPoint e (degenerate r s) = readPoint e s := rfl
@[simp] theorem readScalar_degenerate (i : Operand) (r : ResultCode) : readScalar i (degenerate r s) = readScalar i s := rfl
@[simp] theorem readPoint_raiseFault (e : Operand) (c : FaultCause) (w : Word) : readPoint e (raiseFault c w s) = readPoint e s := rfl
@[simp] theorem readScalar_raiseFault (i : Operand) (c : FaultCause) (w : Word) : readScalar i (raiseFault c w s) = readScalar i s := rfl
@[simp] theorem readPoint_respond (e : Operand) (r : BusResponse) : readPoint e (respond r s) = readPoint e s := rfl
@[simp] theorem readScalar_respond (i : Operand) (r : BusResponse) : readScalar i (respond r s) = readScalar i s := rfl
@[simp] theorem readPoint_takeEvent (e : Operand) (es : List HostEvent) : readPoint e (takeEvent es s) = readPoint e s := rfl
@[simp] theorem readScalar_takeEvent (i : Operand) (es : List HostEvent) : readScalar i (takeEvent es s) = readScalar i s := rfl
@[simp] theorem readPoint_issueNext (e : Operand) (w : Word) : readPoint e (issueNext w s) = readPoint e s := rfl
@[simp] theorem readScalar_issueNext (i : Operand) (w : Word) : readScalar i (issueNext w s) = readScalar i s := rfl

end Sys2Proof.Machine
end

