-- ==== Sys2Proof/Laws/Ops.lean ====
section
/-! SUPPORT. For each shared operation, once, all that it can do; and what `exec` of each command is. -/

namespace Sys2Proof.Machine

/-! ### How a command ends -/

theorem whenLegal_of_wellFormed {i : Instr} (h : i.wellFormed = true) (s t : State) :
    whenLegal i s t = t := by
  rw [whenLegal, if_pos h]

theorem whenLegal_of_illFormed {i : Instr} (h : i.wellFormed = false) (s t : State) :
    whenLegal i s t = raiseFault .illegalCmd (encode i) s := by
  rw [whenLegal, if_neg (by simp [h])]

@[simp] theorem deliverSum_point (i : Instr) (d : Operand) (p : Point) (s : State) :
    deliverSum i d (.point p) s = complete (writePoint d p s) := rfl

@[simp] theorem deliverSum_unreachable (i : Instr) (d : Operand) (s : State) :
    deliverSum i d .unreachable s = raiseFault .groupLaw (encode i) s := rfl

/-- A sum ends a command in one of two ways. -/
theorem deliverSum_cases (i : Instr) (d : Operand) (sum : PointSum) (s : State) :
    (∃ p, sum = .point p ∧ deliverSum i d sum s = complete (writePoint d p s)) ∨
      (sum = .unreachable ∧ deliverSum i d sum s = raiseFault .groupLaw (encode i) s) := by
  cases sum with
  | point p => exact .inl ⟨p, rfl, rfl⟩
  | unreachable => exact .inr ⟨rfl, rfl⟩

/-! ### The port -/

theorem issueCommand_of_faulted {s : State} (h : s.fault = true) (w : Word) :
    issueCommand w s = .next s := by
  rw [issueCommand, if_pos h]

theorem issueCommand_of_illegal {s : State} (h : s.fault = false) {w : Word} {r : Illegal}
    (hw : decode w = .error r) : issueCommand w s = .next (raiseFault .illegalCmd w s) := by
  rw [issueCommand, if_neg (by simp [h]), hw]

theorem issueCommand_of_legal {s : State} (h : s.fault = false) {w : Word} {i : Instr}
    (hw : decode w = .ok i) : issueCommand w s = exec i s := by
  rw [issueCommand, if_neg (by simp [h]), hw]

/-- A written command word is discarded, or faults, or runs. -/
theorem issueCommand_cases (w : Word) (s : State) :
    (s.fault = true ∧ issueCommand w s = .next s) ∨
      (s.fault = false ∧ ∃ r, decode w = .error r ∧
        issueCommand w s = .next (raiseFault .illegalCmd w s)) ∨
      (s.fault = false ∧ ∃ i, decode w = .ok i ∧ issueCommand w s = exec i s) := by
  cases hf : s.fault with
  | true => exact .inl ⟨rfl, issueCommand_of_faulted hf w⟩
  | false =>
    cases hw : decode w with
    | error r => exact .inr (.inl ⟨rfl, r, rfl, issueCommand_of_illegal hf hw⟩)
    | ok i => exact .inr (.inr ⟨rfl, i, rfl, issueCommand_of_legal hf hw⟩)

/-- An access is outside the window, or answered by a bus error, or performed. -/
theorem hostAccess_cases (addr bits : Nat) (s : State) (f : PortTarget → Outcome) :
    (0x400 ≤ addr ∧ hostAccess addr bits s f = .fault .outsideWindow) ∨
      (addr < 0x400 ∧ (addr % 4 ≠ 0 ∨ bits ≠ 32) ∧
        hostAccess addr bits s f = .next (respond .busError s)) ∨
      (addr < 0x400 ∧ addr % 4 = 0 ∧ bits = 32 ∧ hostAccess addr bits s f = f (portTarget addr)) := by
  by_cases h : 0x400 ≤ addr
  · exact .inl ⟨h, by rw [hostAccess, if_pos h]⟩
  · by_cases h2 : addr % 4 ≠ 0 ∨ bits ≠ 32
    · exact .inr (.inl ⟨by omega, h2, by rw [hostAccess, if_neg h, if_pos h2]⟩)
    · exact .inr (.inr ⟨by omega, by omega, by omega, by rw [hostAccess, if_neg h, if_neg h2]⟩)

/-- An aligned 32-bit access inside the window is performed. -/
theorem hostAccess_of_valid {addr : Nat} (h : addr < 0x400) (ha : addr % 4 = 0) (s : State)
    (f : PortTarget → Outcome) : hostAccess addr 32 s f = f (portTarget addr) := by
  rw [hostAccess, if_neg (by omega), if_neg (by omega)]

/-- A write to `CMD` issues the word it writes. -/
theorem handleEvent_cmdWrite (w : Word) (s : State) :
    handleEvent (cmdWrite w) s = issueCommand w (respond .ack s) := rfl

theorem step_of_idle {s : State} (h : s.pending = []) : step s = .next s := by
  rw [step, h]

theorem step_of_event {s : State} {e : HostEvent} {rest : List HostEvent} (h : s.pending = e :: rest) :
    step s = handleEvent e (takeEvent rest s) := by
  rw [step, h]

/-! ### What each command's execution is -/

variable (s : State)

@[simp] theorem exec_nop : exec .nop s = execNop s := rfl
@[simp] theorem exec_fmov (d a : Operand) : exec (.fmov d a) s = execFmov d a s := rfl
@[simp] theorem exec_fldc (d c : Operand) : exec (.fldc d c) s = execFldc d c s := rfl
@[simp] theorem exec_fadd (d a b : Operand) : exec (.fadd d a b) s = execFadd d a b s := rfl
@[simp] theorem exec_fmul (d a b : Operand) : exec (.fmul d a b) s = execFmul d a b s := rfl
@[simp] theorem exec_fpow (d a b : Operand) : exec (.fpow d a b) s = execFpow d a b s := rfl
@[simp] theorem exec_finv (d a : Operand) : exec (.finv d a) s = execFinv d a s := rfl
@[simp] theorem exec_ftr (d a : Operand) : exec (.ftr d a) s = execFtr d a s := rfl
@[simp] theorem exec_fhtr (d a : Operand) : exec (.fhtr d a) s = execFhtr d a s := rfl
@[simp] theorem exec_fcmp (a b : Operand) : exec (.fcmp a b) s = execFcmp a b s := rfl
@[simp] theorem exec_qsolve (d a b : Operand) : exec (.qsolve d a b) s = execQsolve d a b s := rfl
@[simp] theorem exec_pfromx (d a : Operand) : exec (.pfromx d a) s = execPfromx d a s := rfl
@[simp] theorem exec_padd (d a b : Operand) : exec (.padd d a b) s = execPadd d a b s := rfl
@[simp] theorem exec_pdbl (d a : Operand) : exec (.pdbl d a) s = execPdbl d a s := rfl
@[simp] theorem exec_pneg (d a : Operand) : exec (.pneg d a) s = execPneg d a s := rfl
@[simp] theorem exec_pcmp (a b : Operand) : exec (.pcmp a b) s = execPcmp a b s := rfl
@[simp] theorem exec_smul (d a b : Operand) : exec (.smul d a b) s = execSmul d a b s := rfl

/-! ### The loops of the field and point functions, one pass -/

@[simp] theorem feMulLoop_zero (acc a b : FieldElement) : feMulLoop 0 acc a b = acc := rfl

theorem feMulLoop_succ (n : Nat) (acc a b : FieldElement) :
    feMulLoop (n + 1) acc a b =
      feMulLoop n (if b.getLsbD 0 then feAdd acc a else acc) (feDouble a) (b >>> 1) := rfl

@[simp] theorem fePowLoop_zero (r a : FieldElement) (k : Nat) : fePowLoop 0 r a k = r := rfl

theorem fePowLoop_succ (n : Nat) (r a : FieldElement) (k : Nat) :
    fePowLoop (n + 1) r a k =
      if k = 0 then r else fePowLoop n (if k % 2 = 1 then feMul r a else r) (feSquare a) (k / 2) := rfl

@[simp] theorem feTraceLoop_zero (a t : FieldElement) : feTraceLoop 0 a t = t := rfl

theorem feTraceLoop_succ (n : Nat) (a t : FieldElement) :
    feTraceLoop (n + 1) a t = feTraceLoop n (feSquare a) (feAdd t (feSquare a)) := rfl

@[simp] theorem feHalfTraceLoop_zero (a t : FieldElement) : feHalfTraceLoop a 0 t = t := rfl

theorem feHalfTraceLoop_succ (a : FieldElement) (n : Nat) (t : FieldElement) :
    feHalfTraceLoop a (n + 1) t = feHalfTraceLoop a n (feAdd (feSquare (feSquare t)) a) := rfl

@[simp] theorem isIdentity_iff (p : Point) : isIdentity p = true ↔ p = identity := by
  cases p; simp [isIdentity, identity]

end Sys2Proof.Machine
end

