-- ==== Sys2Proof/Laws/PerInstr.lean ====
section
/-! SUPPORT. The fields of a command word, and what is said of every command as syntax, command by command. -/

namespace Sys2Proof

/-! ### The fields of a packed word are what was packed -/

theorem packWord_toNat (op : BitVec 8) (d a b : Operand) :
    (packWord op d a b).toNat = 2 ^ 24 * op.toNat + 2 ^ 20 * d.val + 2 ^ 16 * a.val + 2 ^ 12 * b.val := by
  have h := op.isLt
  rw [packWord, BitVec.toNat_ofNat, Nat.mod_eq_of_lt]
  omega

theorem opField_packWord (op : BitVec 8) (d a b : Operand) : opField (packWord op d a b) = op := by
  apply BitVec.eq_of_toNat_eq
  rw [opField, BitVec.extractLsb'_toNat, packWord_toNat, Nat.shiftRight_eq_div_pow]
  omega

theorem zField_packWord (op : BitVec 8) (d a b : Operand) : zField (packWord op d a b) = 0 := by
  apply BitVec.eq_of_toNat_eq
  rw [zField, BitVec.extractLsb'_toNat, packWord_toNat, Nat.shiftRight_eq_div_pow]
  change _ = 0
  omega

/-- A 4-bit field of a word, as a number. -/
theorem operandField_val (lo : Nat) (w : Word) : (operandField lo w).val = w.toNat / 2 ^ lo % 16 := by
  change (w.extractLsb' lo 4).toNat = _
  rw [BitVec.extractLsb'_toNat, Nat.shiftRight_eq_div_pow]

theorem dField_packWord (op : BitVec 8) (d a b : Operand) : dField (packWord op d a b) = d := by
  apply Fin.ext
  rw [dField, operandField_val, packWord_toNat]
  omega

theorem aField_packWord (op : BitVec 8) (d a b : Operand) : aField (packWord op d a b) = a := by
  apply Fin.ext
  rw [aField, operandField_val, packWord_toNat]
  omega

theorem bField_packWord (op : BitVec 8) (d a b : Operand) : bField (packWord op d a b) = b := by
  apply Fin.ext
  rw [bField, operandField_val, packWord_toNat]
  omega

theorem opcodeOf_code (o : Opcode) : opcodeOf o.code = some o := by
  cases o <;> rfl

end Sys2Proof

namespace Sys2Proof.Laws

/-- The word of a command carries its opcode (R87), and its `z` field is zero (R89). -/
def WordFields.Statement (i : Instr) : Prop :=
  opcodeOf (opField (encode i)) = some i.opcode ∧ zField (encode i) = 0

/-- What every lemma below is. -/
theorem wordFields_of_pack {i : Instr} {d a b : Operand} (h : encode i = packWord i.opcode.code d a b) :
    WordFields.Statement i := by
  rw [WordFields.Statement, h, opField_packWord, zField_packWord]
  exact ⟨opcodeOf_code _, rfl⟩

theorem WordFields.nop : WordFields.Statement .nop := wordFields_of_pack rfl
theorem WordFields.fmov (d a : Operand) : WordFields.Statement (.fmov d a) := wordFields_of_pack rfl
theorem WordFields.fldc (d c : Operand) : WordFields.Statement (.fldc d c) := wordFields_of_pack rfl
theorem WordFields.fadd (d a b : Operand) : WordFields.Statement (.fadd d a b) := wordFields_of_pack rfl
theorem WordFields.fmul (d a b : Operand) : WordFields.Statement (.fmul d a b) := wordFields_of_pack rfl
theorem WordFields.fpow (d a b : Operand) : WordFields.Statement (.fpow d a b) := wordFields_of_pack rfl
theorem WordFields.finv (d a : Operand) : WordFields.Statement (.finv d a) := wordFields_of_pack rfl
theorem WordFields.ftr (d a : Operand) : WordFields.Statement (.ftr d a) := wordFields_of_pack rfl
theorem WordFields.fhtr (d a : Operand) : WordFields.Statement (.fhtr d a) := wordFields_of_pack rfl
theorem WordFields.fcmp (a b : Operand) : WordFields.Statement (.fcmp a b) := wordFields_of_pack rfl
theorem WordFields.qsolve (d a b : Operand) : WordFields.Statement (.qsolve d a b) := wordFields_of_pack rfl
theorem WordFields.pfromx (d a : Operand) : WordFields.Statement (.pfromx d a) := wordFields_of_pack rfl
theorem WordFields.padd (d a b : Operand) : WordFields.Statement (.padd d a b) := wordFields_of_pack rfl
theorem WordFields.pdbl (d a : Operand) : WordFields.Statement (.pdbl d a) := wordFields_of_pack rfl
theorem WordFields.pneg (d a : Operand) : WordFields.Statement (.pneg d a) := wordFields_of_pack rfl
theorem WordFields.pcmp (a b : Operand) : WordFields.Statement (.pcmp a b) := wordFields_of_pack rfl
theorem WordFields.smul (d a b : Operand) : WordFields.Statement (.smul d a b) := wordFields_of_pack rfl

end Sys2Proof.Laws
end

