-- ==== Sys2Proof/Laws/Terms.lean ====
section
/-! SUPPORT. The small lemmas of the terms of Safety.lean. -/

namespace Sys2Proof.Safety

open Sys2Proof.Machine

@[simp] theorem doubled_zero (p : Point) : doubled p 0 = p := rfl

@[simp] theorem doubled_succ (p : Point) (n : Nat) : doubled p (n + 1) = pointDouble (doubled p n) := rfl

@[simp] theorem addTo_point (p q : Point) : addTo (.point p) q = pointAdd p q := rfl

@[simp] theorem addTo_unreachable (q : Point) : addTo .unreachable q = .unreachable := rfl

/-- An aligned 32-bit read inside the window answers the word its target holds. -/
theorem portReads_of_valid {addr : Nat} (h : addr < 0x400) (ha : addr % 4 = 0) (s : State) :
    portReads addr (readTarget (portTarget addr) s) s :=
  hostAccess_of_valid h ha s fun u => .next (respond (.data (readTarget u s)) s)

/-- What such a read answers is the word its target holds, and no other. -/
theorem portReads_iff {addr : Nat} (h : addr < 0x400) (ha : addr % 4 = 0) (v : Word) (s : State) :
    portReads addr v s ↔ v = readTarget (portTarget addr) s := by
  constructor
  · intro hv
    have hr := (portReads_of_valid h ha s).symm.trans hv
    simp only [Host.Outcome.next.injEq, State.mk.injEq, Option.some.injEq, BusResponse.data.injEq] at hr
    exact hr.2.2.2.2.2.2.2.2.1.symm
  · rintro rfl
    exact portReads_of_valid h ha s

end Sys2Proof.Safety
end

