-- ==== Sys2Proof/Tests/Slice0.lean ====
section
/-! SUPPORT. The author's tests: the well-formedness smoke, each command's decoding, small steps against the
vectors of 95_test_vectors.md, and for each obligation with hypotheses a concrete case that meets them. -/

namespace Sys2Proof.Tests

open Sys2Proof.Machine Sys2Proof.Safety

-- One evaluation at a time: many at once, each in a thread of its own, ask for more memory than the check gives.
set_option Elab.async false

/-! ### Well-formedness (R84, R85) -/

theorem test_wf_pfromx_odd_d : (Instr.pfromx 3 0).wellFormed = false := by decide
theorem test_wf_padd_odd_d : (Instr.padd 5 0 2).wellFormed = false := by decide
theorem test_wf_padd_odd_a : (Instr.padd 4 1 2).wellFormed = false := by decide
theorem test_wf_padd_odd_b : (Instr.padd 4 0 3).wellFormed = false := by decide
theorem test_wf_pdbl_odd_d : (Instr.pdbl 1 0).wellFormed = false := by decide
theorem test_wf_pdbl_odd_a : (Instr.pdbl 2 15).wellFormed = false := by decide
theorem test_wf_pneg_odd_d : (Instr.pneg 1 0).wellFormed = false := by decide
theorem test_wf_pneg_odd_a : (Instr.pneg 2 1).wellFormed = false := by decide
theorem test_wf_pcmp_odd_a : (Instr.pcmp 1 0).wellFormed = false := by decide
theorem test_wf_pcmp_odd_b : (Instr.pcmp 0 1).wellFormed = false := by decide
theorem test_wf_smul_odd_d : (Instr.smul 7 0 9).wellFormed = false := by decide
theorem test_wf_smul_odd_a : (Instr.smul 2 1 4).wellFormed = false := by decide
theorem test_wf_fldc_reserved : (Instr.fldc 7 7).wellFormed = false := by decide

/-! ### Decoding: words written out from R81, R82, R87 (table 7.1 of 95_test_vectors.md) -/

theorem test_decode_nop : decode 0b00000000000000000000000000000000 = .ok .nop := by decide
theorem test_decode_fmov : decode 0b00000001010100000000000000000000 = .ok (.fmov 5 0) := by decide
theorem test_decode_fldc : decode 0b00000010011100110000000000000000 = .ok (.fldc 7 3) := by decide
theorem test_decode_fadd : decode 0b00010000001000000001000000000000 = .ok (.fadd 2 0 1) := by decide
theorem test_decode_fmul : decode 0b00010001001100010010000000000000 = .ok (.fmul 3 1 2) := by decide
theorem test_decode_fpow : decode 0b00010010001000000001000000000000 = .ok (.fpow 2 0 1) := by decide
theorem test_decode_finv : decode 0b00010011000100000000000000000000 = .ok (.finv 1 0) := by decide
theorem test_decode_ftr : decode 0b00010100000100000000000000000000 = .ok (.ftr 1 0) := by decide
theorem test_decode_fhtr : decode 0b00010101000100000000000000000000 = .ok (.fhtr 1 0) := by decide
theorem test_decode_fcmp : decode 0b00010110000000000001000000000000 = .ok (.fcmp 0 1) := by decide
theorem test_decode_qsolve : decode 0b00100000001000000001000000000000 = .ok (.qsolve 2 0 1) := by decide
theorem test_decode_pfromx : decode 0b00100001001000000000000000000000 = .ok (.pfromx 2 0) := by decide
theorem test_decode_padd : decode 0b00110000010000000010000000000000 = .ok (.padd 4 0 2) := by decide
theorem test_decode_pdbl : decode 0b00110001001000000000000000000000 = .ok (.pdbl 2 0) := by decide
theorem test_decode_pneg : decode 0b00110010001000000000000000000000 = .ok (.pneg 2 0) := by decide
theorem test_decode_pcmp : decode 0b00110011000000000010000000000000 = .ok (.pcmp 0 2) := by decide
theorem test_decode_smul : decode 0b01000000011000001001000000000000 = .ok (.smul 6 0 9) := by decide

/-! The five checks of R90, on words of table 7.2. -/

theorem test_reject_opcode : decode 0x41000000 = .error .reservedOpcode := by decide
theorem test_reject_z : decode 0x11312001 = .error .nonzeroZ := by decide
theorem test_reject_unused : decode 0x33102000 = .error .unusedFieldNonzero := by decide
theorem test_reject_odd : decode 0x30403000 = .error .oddPointRegister := by decide
theorem test_reject_constant : decode 0x02070000 = .error .reservedConstant := by decide
theorem test_table_word : decodeTableWord 32 0x40EEF000 = some (.smul 14 14 15) := by decide

/-! ### Small steps -/

/-- A block with these register contents, the others zero, right after reset otherwise. -/
def start (regs : List (Operand × FieldElement)) : State :=
  regs.foldl (fun s r => writeField r.1 r.2 s) { State.reset with fregs := Vector.replicate 16 0 }

/-- The state after the host has written `w` to `CMD`; the state itself if the step stops. -/
def afterWord (w : Nat) (s : State) : State :=
  match step (s.withFetchWord 32 w) with
  | .next t => t
  | .fault _ => s
  | .refused _ => s

/-- The operands `a` and `b` of section 1 of 95_test_vectors.md. -/
def valueA : FieldElement := 0x2A5C3E1F0B9D8C7A6F5E4D3C2B1A0987654321FED
def valueB : FieldElement := 0x1123456789ABCDEF0FEDCBA9876543210ABCDEF01

theorem test_nop : statusWord (afterWord 0 { start [] with result := .noRoot, eq := true }) = 0x00010000 := by
  decide +kernel
theorem test_fmov : readField 5 (afterWord 0x01500000 (start [(0, 0xC9)])) = 0xC9 := by decide +kernel
theorem test_fldc_one : readField 7 (afterWord 0x02710000 (start [])) = 1 := by decide +kernel
theorem test_fldc_reserved :
    statusWord (afterWord 0x02770000 (start [(7, 5)])) = 0x11 ∧
      readField 7 (afterWord 0x02770000 (start [(7, 5)])) = 5 := by decide +kernel
theorem test_fadd :
    readField 2 (afterWord 0x10201000 (start [(0, valueA), (1, valueB)])) =
      0x3B7F7B788236419560B38695AC7F4AA66FFFFF0EC := by decide +kernel
theorem test_fmul_general :
    readField 2 (afterWord 0x11201000 (start [(0, valueA), (1, valueB)])) =
      0x1E6B76B06FFA77CFA3ABD6EA6117E581317948F77 := by decide +kernel
theorem test_fmul_reduces :
    readField 2 (afterWord 0x11201000 (start [(0, 0x40000000000000000000000000000000000000000), (1, 2)])) =
      0xC9 := by decide +kernel
theorem test_fpow_three :
    readField 2 (afterWord 0x12201000 (start [(0, valueA), (1, 3)])) =
      0x4B23B18220D47CAE809520D9C822A8A2B8C3F15A7 := by decide +kernel
theorem test_fpow_zero_to_zero : readField 2 (afterWord 0x12201000 (start [])) = 1 := by decide +kernel
theorem test_finv :
    readField 1 (afterWord 0x13100000 (start [(0, valueA)])) =
      0x1506DB82384FE0256C112B924C6F6D4F58809DC2D := by decide +kernel
theorem test_finv_zero :
    statusWord (afterWord 0x13100000 (start [(1, 0xABC)])) = 0x100 ∧
      readField 1 (afterWord 0x13100000 (start [(1, 0xABC)])) = 0xABC := by decide +kernel
theorem test_ftr :
    readField 1 (afterWord 0x14100000 (start [(0, 1), (1, valueA)])) = 1 := by decide +kernel
theorem test_fhtr :
    readField 1 (afterWord 0x15100000 (start [(0, 2)])) =
      0x28EB9A3A65DFE99774DB0914DD3609E5F24C5508A := by decide +kernel
theorem test_fcmp_below : statusWord (afterWord 0x16010000 (start [(0, valueA), (1, valueB)])) = 0x20000 := by
  decide +kernel
theorem test_fcmp_equal : statusWord (afterWord 0x16001000 (start [])) = 0x10000 := by decide +kernel
theorem test_qsolve_root :
    readField 2 (afterWord 0x20201000 (start [(0, 2), (1, 3)])) = 1 := by decide +kernel
theorem test_qsolve_no_root :
    statusWord (afterWord 0x20201000 (start [(0, 1), (1, 1), (2, 7)])) = 0x200 ∧
      readField 2 (afterWord 0x20201000 (start [(0, 1), (1, 1), (2, 7)])) = 7 := by decide +kernel
theorem test_pfromx_zero :
    statusWord (afterWord 0x21200000 (start [(2, 9)])) = 0 ∧
      readField 2 (afterWord 0x21200000 (start [(2, 9)])) = 0 := by decide +kernel
theorem test_curveRhs : curveRhs 0x5FF6108462A2DC8210AB403925E638A19C1455D21 4 =
    0x5FF6108462A2DC8210AB403925E638A19C1455D71 := by decide +kernel
theorem test_padd :
    readPoint 4 (afterWord 0x30402000 (start [(0, 2), (1, 1), (2, 4), (3, 7)])) = ⟨7, 3⟩ := by decide +kernel
theorem test_padd_unreachable :
    statusWord (afterWord 0x30402000 (start [(0, 2), (1, 1), (2, 2), (3, 5), (4, 9), (5, 9)])) = 0x21 ∧
      (afterWord 0x30402000 (start [(0, 2), (1, 1), (2, 2), (3, 5), (4, 9), (5, 9)])).faultCmd = 0x30402000 ∧
      readPoint 4 (afterWord 0x30402000 (start [(0, 2), (1, 1), (2, 2), (3, 5), (4, 9), (5, 9)])) = ⟨9, 9⟩ := by
  decide +kernel
theorem test_pdbl :
    readPoint 2 (afterWord 0x31200000 (start [(0, 2), (1, 1)])) =
      ⟨0x60000000000000000000000000000000000000051, 0x50000000000000000000000000000000000000072⟩ := by
  decide +kernel
theorem test_pdbl_order_two : readPoint 2 (afterWord 0x31200000 (start [(1, 5)])) = ⟨0, 0⟩ := by decide +kernel
theorem test_pneg : readPoint 2 (afterWord 0x32200000 (start [(0, 2), (1, 1)])) = ⟨2, 3⟩ := by decide +kernel
theorem test_pcmp_clears_lt :
    statusWord (afterWord 0x33002000 { start [(0, 2), (1, 1), (2, 2), (3, 1)] with lt := true }) = 0x10000 := by
  decide +kernel
theorem test_pcmp_y : statusWord (afterWord 0x33002000 (start [(0, 2), (1, 1), (2, 2), (3, 3)])) = 0 := by
  decide +kernel
theorem test_smul_three :
    readPoint 2 (afterWord 0x40204000 (start [(0, 2), (1, 1), (4, 3)])) =
      ⟨0x385CE17385CE17385CE17385CE17385CE17385CC4, 0x585E03BD85E03BD85E03BD85E03BD85E03BD85E70⟩ := by
  decide +kernel
theorem test_smul_zero : readPoint 2 (afterWord 0x40204000 (start [(0, 2), (1, 1), (2, 8)])) = ⟨0, 0⟩ := by
  decide +kernel

/-! The port (table 7.3). -/

theorem test_words_of_a :
    [regWord valueA 0, regWord valueA 1, regWord valueA 2, regWord valueA 3, regWord valueA 4, regWord valueA 5] =
      [0x00000002, 0xA5C3E1F0, 0xB9D8C7A6, 0xF5E4D3C2, 0xB1A09876, 0x54321FED] := by decide +kernel
theorem test_hwr : (afterEvents (hwr 2 (valueA.setWidth 164)) (start [])).map (readField 2) = some valueA := by
  decide +kernel
theorem test_digest : fieldElementFromDigest [0xF0, 0xF1, 0xF2, 0xF3, 0xF4, 0xF5, 0xF6, 0xF7, 0xF8, 0xF9, 0xFA,
    0xFB, 0xFC, 0xFD, 0xFE, 0xFF, 0x00, 0x01, 0x02, 0x03, 0x04, 0x05, 0x06, 0x07, 0x08, 0x09, 0x0A, 0x0B, 0x0C,
    0x0D, 0x0E, 0x0F] = 0x3FCFDFEFF000102030405060708090A0B0C0D0E0F := by decide +kernel

/-! The host's encodings outside the lengths of R52 and R53, and `sign` by an instance (program 6: `d` and `e` of
section 1, `fe`, and the digest's `h`, give the `r` and `s` of lines 11 and 14). -/

theorem test_fromBytes_lengths :
    (fromBytes (List.replicate 22 0), fromBytes [0x01, 0xC9]) = (none, some 0x1C9) := by decide +kernel
theorem test_fromHex_lengths :
    (fromHex [], fromHex (List.replicate 42 0), fromHex (8 :: List.replicate 40 0), fromHex [0xC, 9]) =
      (none, none, some 0, some 0xC9) := by decide +kernel
theorem test_signWith :
    (signWith ⟨8, 9, 10, 11, 12, 13, 14, 15⟩
        ⟨0x183F60FDF7951FF47D67193F8D073790C1C9B5A3E, identity, 0x1025E40BD97DB012B7A1D79DE8E12932D247F61C6,
          0x42A7D756D70E1C9BA62D2CB43707C35204EF3C67C⟩
        0x3FCFDFEFF000102030405060708090A0B0C0D0E0F (start [])).map (fun p => p.1) =
      some (0x5FE156BD4FE238B3D732C7FEDFC1BE32A848D11E2, 0x0B05FC839B6F9925C8321D603289D7620C061A35E) := by
  decide +kernel

/-! ### For each obligation with hypotheses, a case that meets them together -/

/-- A block that `PADD` with an odd index faulted. -/
def faulted : State := { start [] with fault := true, fcause := .illegalCmd, faultCmd := 0x30502000 }

/-- Two pairs with one x-coordinate and unrelated y-coordinates, `P0 = (2, 1)` and `P1 = (2, 5)`. -/
def unrelated : State := start [(0, 2), (1, 1), (2, 2), (3, 5)]

theorem witness_DecodeOfEncode : (Instr.smul 14 14 15).wellFormed = true ∧ (Instr.fldc 15 6).wellFormed = true := by
  decide
theorem witness_EncodeOfDecode : decode 0x21E10000 = .ok (.pfromx 14 1) := by decide
theorem witness_StepRunsTheDecodedCommand :
    (start [] |>.withFetchWord 32 0x10201000).pending = cmdWrite 0x10201000 :: [] ∧
      (start [] |>.withFetchWord 32 0x10201000).fault = false ∧ decode 0x10201000 = .ok (.fadd 2 0 1) :=
  ⟨rfl, rfl, by decide⟩
theorem witness_StepTakesOneEvent :
    (start []).pending = [] ∧ { start [] with pending := [hst, hreset] }.pending = hst :: [hreset] ∧
      ∃ t, step { start [] with pending := [hst, hreset] } = .next t := ⟨rfl, rfl, _, rfl⟩
theorem witness_FaultCausesAreExact :
    (start []).fault = false ∧ unrelated.fault = false ∧ illegalWord 0x30502000 ∧ ¬ illegalWord 0x30402000 ∧
      unreachableCommand 0x30402000 unrelated :=
  ⟨rfl, rfl, by decide, by decide, .inl ⟨4, 0, 2, by decide, by decide +kernel⟩⟩
theorem witness_PortWriteOfARegisterWord :
    (0x1F4 < 0x400 ∧ 0x1F4 % 4 = 0 ∧ 0x1F4 ≠ 0x20 * (0 : Operand).val + 4 * (5 : Fin 6).val) ∧
      0x3FC < 0x400 ∧ 0x3FC % 4 = 0 := by decide
theorem witness_DecodeCheck_illegal :
    (illegalWord 0x03000000 ∧ illegalWord 0x00000001) ∧ (illegalWord 0x00100000 ∧ illegalWord 0x30403000) ∧
      illegalWord 0x02070000 := ⟨⟨by decide, by decide⟩, ⟨by decide, by decide⟩, by decide⟩
theorem witness_DecodeCheck_legal : ¬ illegalWord 0 ∧ ¬ illegalWord 0x02F60000 ∧ ¬ illegalWord 0x40EEF000 :=
  ⟨by decide, by decide, by decide⟩
theorem witness_FaultEntry_illegal :
    (start []).fault = false ∧ ∃ t, issueCommand 0x30502000 (start []) = .next t ∧ t.fault = true ∧
      t.fcause = .illegalCmd := ⟨rfl, _, rfl, rfl, rfl⟩
theorem witness_FaultEntry_groupLaw :
    unrelated.fault = false ∧ decode 0x30402000 = .ok (.padd 4 0 2) ∧
      ∃ t, exec (.padd 4 0 2) unrelated = .next t ∧ t.fault = true ∧ t.fcause = .groupLaw :=
  ⟨rfl, by decide, _, rfl, by decide +kernel, by decide +kernel⟩
theorem witness_FaultedBlock :
    faulted.fault = true ∧ (1 : Word).getLsbD 0 = true ∧ isResetEvent (cmdWrite 0) = false ∧
      (∃ t, handleEvent (cmdWrite 0) faulted = .next t) := ⟨rfl, by decide, by decide, _, rfl⟩
theorem witness_FaultCmd_running : faultRecord (start []) ∧ (start []).fault = false :=
  ⟨⟨fun _ => ⟨rfl, rfl⟩, (by simp [start, State.reset])⟩, rfl⟩
theorem witness_FaultCmd_faulted : faultRecord faulted ∧ faulted.fault = true ∧ isResetEvent hst = false :=
  ⟨⟨(by simp [faulted]), fun _ => .inl ⟨rfl, .oddPointRegister, by decide⟩⟩, rfl, by decide⟩
theorem witness_ReadsHaveNoSideEffect :
    (∃ t, handleEvent (.portRead 0x3FC 32) (start []) = .next t) ∧
      ∃ t, handleEvent (.portRead 0 16) (start []) = .next t := ⟨⟨_, rfl⟩, _, rfl⟩
theorem witness_Misaligned : (0x3FF < 0x400 ∧ (0x3FF % 4 ≠ 0 ∨ 32 ≠ 32)) ∧ (0 < 0x400 ∧ (0 % 4 ≠ 0 ∨ 16 ≠ 32)) := by
  decide
theorem witness_ReservedAddresses :
    ∀ addr ∈ [0x018, 0x01C, 0x1F8, 0x1FC, 0x214, 0x3FC], addr % 4 = 0 ∧
      ((addr < 0x200 ∧ (addr % 0x20 = 0x18 ∨ addr % 0x20 = 0x1C)) ∨ (0x214 ≤ addr ∧ addr < 0x400)) := by
  decide
theorem witness_CtrlWord : (0xFFFFFFFF : Word).getLsbD 0 = true ∧ (0xFFFFFFFE : Word).getLsbD 0 = false := by
  decide
theorem witness_HardAndSoftReset : (1 : Word).getLsbD 0 = true := by decide
theorem witness_StepKeepsTheInvariant :
    Inv { faulted with pending := [hreset] } ∧ ∃ t, step { faulted with pending := [hreset] } = .next t :=
  ⟨⟨witness_FaultCmd_faulted.1, by decide +kernel⟩, _, rfl⟩
theorem witness_CleanRuns :
    (∀ e ∈ [cmdWrite 0, hst], isResetEvent e = false) ∧
      (∃ t, runEvents [cmdWrite 0, hst] (start []) = .next t ∧ t.fault = false) ∧
      [cmdWrite 0, hst] = [cmdWrite 0] ++ [hst] ∧ ∃ m, runEvents [cmdWrite 0] (start []) = .next m :=
  ⟨by decide, ⟨_, rfl, rfl⟩, rfl, _, rfl⟩
theorem witness_CommandsLeaveTheRest :
    (Instr.padd 4 0 2).wellFormed = true ∧ ∃ t, exec (.padd 4 0 2) unrelated = .next t := ⟨by decide, _, rfl⟩
theorem witness_Flags :
    isCompare .nop = false ∧ isCompare (.pcmp 0 2) = true ∧ (Instr.pcmp 0 2).wellFormed = true ∧
      (∃ t, exec .nop (start []) = .next t) ∧ ∃ t, exec (.pcmp 0 2) (start []) = .next t :=
  ⟨rfl, rfl, by decide, ⟨_, rfl⟩, _, rfl⟩
theorem witness_IllFormedOperands : (Instr.pneg 15 0).wellFormed = false ∧ (Instr.fldc 0 7).wellFormed = false := by
  decide
theorem witness_Fldc (d : Operand) :
    ((6 : Operand), Config.nConst) ∈ [((0 : Operand), (0 : FieldElement)), (6, Config.nConst)] ∧ d = d :=
  ⟨by simp, rfl⟩
theorem witness_point_operands :
    (0 : Operand).isEven = true ∧ (2 : Operand).isEven = true ∧ (14 : Operand).isEven = true := by decide
theorem witness_PowerIsRepeatedProduct : (1 : Nat) ≤ 1 := Nat.le_refl 1
theorem witness_InverseIsTheInverse : valueA ≠ 0 ∧ feMul 1 1 = 1 := by decide +kernel
theorem witness_Solver_root : qsolve 2 0 = .solved 0 := by decide +kernel
theorem witness_Solver_no_root : qsolve 1 1 = .noRoot := by decide +kernel
theorem witness_PfromxPointIsOnTheCurve :
    (2 : Operand).isEven = true ∧ ∃ t, exec (.pfromx 2 0) (start []) = .next t ∧ t.result = .ok :=
  ⟨by decide, _, rfl, by decide +kernel⟩
theorem witness_UnreachableSums : pointAdd ⟨2, 1⟩ ⟨2, 5⟩ = .unreachable := by decide +kernel
theorem witness_CurveIsClosed : validPoint 0xF ⟨2, 1⟩ ∧ validPoint 0xF ⟨2, 3⟩ := by
  constructor <;> right <;> decide +kernel
theorem witness_CurveAdditionAssociates :
    validPoint 0xF ⟨2, 1⟩ ∧ validPoint 0xF ⟨2, 3⟩ ∧ validPoint 0xF identity :=
  ⟨witness_CurveIsClosed.1, witness_CurveIsClosed.2, .inl rfl⟩
theorem witness_SmulOfACurvePoint :
    (6 : Operand).isEven = true ∧ (0 : Operand).isEven = true ∧ validPoint 0xF (readPoint 0 unrelated) :=
  ⟨by decide, by decide, witness_CurveIsClosed.1⟩
theorem witness_SmallMultiples : 0 < 2 ^ 0 ∧ 1 < 2 ^ 1 ∧ 2 ^ 162 - 1 < 2 ^ 162 := by decide

end Sys2Proof.Tests
end

/-! The flags and the fault record: what a command can do to them (R28 to R33, R231, R238), the decoder's inverse
on the words it accepts (R80 to R90), and the control words of the port (R56). -/

namespace Sys2Proof.Proofs

open Sys2Proof.Machine Sys2Proof.Safety

/-! ### Commands whose operands no word stands for -/

theorem constant_of_not_isConstIndex {c : Operand} (h : c.isConstIndex = false) : constant c = none := by
  have hc : 6 < c.val := by simpa [Operand.isConstIndex] using h
  unfold constant
  split
  case h_8 => rfl
  all_goals omega

/-- A command with operands its format does not admit faults with its own word and does nothing else (R90). -/
theorem exec_of_illFormed {i : Instr} (h : i.wellFormed = false) (s : State) :
    exec i s = .next (raiseFault .illegalCmd (encode i) s) := by
  cases i with
  | nop | fmov | fadd | fmul | fpow | finv | ftr | fhtr | fcmp | qsolve => cases h
  | fldc d c => rw [exec_fldc, execFldc, constant_of_not_isConstIndex h]
  | pfromx d a => rw [exec_pfromx, execPfromx, whenLegal_of_illFormed h]
  | padd d a b => rw [exec_padd, execPadd, whenLegal_of_illFormed h]
  | pdbl d a => rw [exec_pdbl, execPdbl, whenLegal_of_illFormed h]
  | pneg d a => rw [exec_pneg, execPneg, whenLegal_of_illFormed h]
  | pcmp a b => rw [exec_pcmp, execPcmp, whenLegal_of_illFormed h]
  | smul d a b => rw [exec_smul, execSmul, whenLegal_of_illFormed h]

/-! ### What a command does to the fault record -/

/-- The two ways a command can end as far as the fault record goes: untouched, or a fault by its own word. -/
def keepsOrRaisesFault (i : Instr) (s t : State) : Prop :=
  sameFault s t ∨ ∃ cause, t = raiseFault cause (encode i) s

theorem keepsOrRaisesFault_of_eq {i : Instr} {s t : State} (hf : t.fault = s.fault) (hc : t.fcause = s.fcause)
    (hw : t.faultCmd = s.faultCmd) : keepsOrRaisesFault i s t :=
  .inl ⟨hf, hc, hw⟩

theorem keepsOrRaisesFault_raiseFault (cause : FaultCause) (i : Instr) (s : State) :
    keepsOrRaisesFault i s (raiseFault cause (encode i) s) :=
  .inr ⟨cause, rfl⟩

theorem keepsOrRaisesFault_deliverSum (i : Instr) (d : Operand) (sum : PointSum) (s : State) :
    keepsOrRaisesFault i s (deliverSum i d sum s) := by
  cases sum with
  | point p => exact keepsOrRaisesFault_of_eq rfl rfl rfl
  | unreachable => exact keepsOrRaisesFault_raiseFault .groupLaw i s

/-- The one way a command changes the fault record is a fault that records the command's own word (R231). -/
theorem keepsOrRaisesFault_of_exec {i : Instr} {s t : State} (h : exec i s = .next t) :
    keepsOrRaisesFault i s t := by
  cases hi : i.wellFormed with
  | false =>
    cases (exec_of_illFormed hi s).symm.trans h
    exact keepsOrRaisesFault_raiseFault .illegalCmd i s
  | true =>
    cases i with
    | nop | fmov | fadd | fmul | fpow | ftr | fhtr | fcmp =>
      cases h
      exact keepsOrRaisesFault_of_eq rfl rfl rfl
    | fldc d c =>
      cases h
      cases hc : constant c with
      | some v => exact keepsOrRaisesFault_of_eq rfl rfl rfl
      | none => exact keepsOrRaisesFault_raiseFault .illegalCmd _ s
    | finv d a =>
      cases h
      split <;> exact keepsOrRaisesFault_of_eq rfl rfl rfl
    | qsolve d a b =>
      cases h
      split <;> exact keepsOrRaisesFault_of_eq rfl rfl rfl
    | pfromx d a =>
      cases h
      rw [whenLegal_of_wellFormed hi]
      split <;> exact keepsOrRaisesFault_of_eq rfl rfl rfl
    | padd | smul =>
      cases h
      rw [whenLegal_of_wellFormed hi]
      exact keepsOrRaisesFault_deliverSum ..
    | pdbl | pneg | pcmp =>
      cases h
      rw [whenLegal_of_wellFormed hi]
      exact keepsOrRaisesFault_of_eq rfl rfl rfl

/-! ### What a command does with the flags -/

theorem whenLegal_setFlags (i : Instr) (e l : Bool) (s t : State) :
    whenLegal i (setFlags e l s) (setFlags e l t) = setFlags e l (whenLegal i s t) := by
  unfold whenLegal
  split <;> rfl

theorem deliverSum_setFlags (i : Instr) (d : Operand) (sum : PointSum) (e l : Bool) (s : State) :
    deliverSum i d sum (setFlags e l s) = setFlags e l (deliverSum i d sum s) := by
  cases sum <;> rfl

/-- A command that is no compare carries the flags along: run from other flags, it ends in the same state with
those flags (R29). -/
theorem exec_setFlags {i : Instr} {s t : State} (hi : isCompare i = false) (h : exec i s = .next t) (e l : Bool) :
    exec i (setFlags e l s) = .next (setFlags e l t) := by
  cases i with
  | nop | fmov | fadd | fmul | fpow | ftr | fhtr => cases h; rfl
  | fcmp | pcmp => cases hi
  | fldc d c =>
    cases h
    rw [exec_fldc, execFldc]
    split <;> rfl
  | finv d a =>
    cases h
    rw [exec_finv, execFinv, readField_setFlags]
    split <;> rfl
  | qsolve d a b =>
    cases h
    rw [exec_qsolve, execQsolve, readField_setFlags, readField_setFlags]
    split <;> rfl
  | pfromx d a =>
    cases h
    rw [exec_pfromx, execPfromx, readField_setFlags, ← whenLegal_setFlags]
    split <;> rfl
  | padd d a b =>
    cases h
    rw [exec_padd, execPadd, readPoint_setFlags, readPoint_setFlags, deliverSum_setFlags, whenLegal_setFlags]
  | smul d a b =>
    cases h
    rw [exec_smul, execSmul, readPoint_setFlags, readScalar_setFlags, deliverSum_setFlags, whenLegal_setFlags]
  | pdbl d a =>
    cases h
    rw [exec_pdbl, execPdbl, readPoint_setFlags, ← whenLegal_setFlags]
    rfl
  | pneg d a =>
    cases h
    rw [exec_pneg, execPneg, readPoint_setFlags, ← whenLegal_setFlags]
    rfl

/-- A command that is no compare leaves both flags: the flags it is run from are the ones it carries along. -/
theorem sameFlags_of_exec {i : Instr} {s t : State} (hi : isCompare i = false) (h : exec i s = .next t) :
    sameFlags s t := by
  have ht : t = setFlags s.eq s.lt t :=
    Host.Outcome.next.inj (h.symm.trans (exec_setFlags hi h s.eq s.lt))
  rw [ht]
  exact ⟨rfl, rfl⟩

/-- A well-formed compare overwrites both flags, so those it is run from make no difference (R120, R167). -/
theorem exec_setFlags_of_isCompare {i : Instr} (hi : isCompare i = true) (hw : i.wellFormed = true) (e l : Bool)
    (s : State) : exec i (setFlags e l s) = exec i s := by
  cases i with
  | fcmp a b => rfl
  | pcmp a b =>
    rw [exec_pcmp, exec_pcmp, execPcmp, execPcmp, whenLegal_of_wellFormed hw, whenLegal_of_wellFormed hw]
    rfl
  | _ => cases hi

/-- Settles O30, from the three ways a command treats the flags: it carries them along, overwrites them, or (an
ill-formed compare) faults. -/
theorem flagsAreWrittenByComparesAndReadByNone : Obligations.FlagsAreWrittenByComparesAndReadByNone := by
  refine ⟨fun i s t => sameFlags_of_exec, fun i s t e l h => ?_⟩
  cases hi : isCompare i with
  | false => exact ⟨setFlags e l t, exec_setFlags hi h e l, rfl, nofun⟩
  | true =>
    cases hw : i.wellFormed with
    | true => exact ⟨t, (exec_setFlags_of_isCompare hi hw e l s).trans h, rfl, fun _ _ => rfl⟩
    | false =>
      cases (exec_of_illFormed hw s).symm.trans h
      exact ⟨_, exec_of_illFormed hw (setFlags e l s), rfl, nofun⟩

/-! ### The decoder: a word it accepts is the word of its command -/

theorem code_of_opcodeOf {op : BitVec 8} {o : Opcode} (h : opcodeOf op = some o) : o.code = op := by
  unfold opcodeOf at h
  split at h
  case h_18 => cases h
  all_goals
    cases h
    exact BitVec.eq_of_toNat_eq (by simp [Opcode.code, *])

/-- A word whose `z` field is zero is packed from its other fields (R81). -/
theorem packWord_fields {w : Word} (hz : zField w = 0) :
    packWord (opField w) (dField w) (aField w) (bField w) = w := by
  have hz' : w.toNat % 2 ^ 12 = 0 := by
    simpa [zField, BitVec.extractLsb'_toNat] using congrArg BitVec.toNat hz
  have hop : (opField w).toNat = w.toNat / 2 ^ 24 % 2 ^ 8 := by
    rw [opField, BitVec.extractLsb'_toNat, Nat.shiftRight_eq_div_pow]
  have hw := w.isLt
  apply BitVec.eq_of_toNat_eq
  rw [packWord_toNat, hop, dField, aField, bField, operandField_val, operandField_val, operandField_val]
  omega

/-- All that a word meets which decodes: its opcode is one of the seventeen, and none of the checks of R90 fails. -/
theorem decode_eq_ok {w : Word} {i : Instr} (h : decode w = .ok i) :
    ∃ o, opcodeOf (opField w) = some o ∧ zField w = 0 ∧
      unusedNonzero o.format (dField w) (aField w) (bField w) = false ∧
      oddPoint o.format (dField w) (aField w) (bField w) = false ∧
      (o = .FLDC → (aField w).isConstIndex = true) ∧ i = o.command (dField w) (aField w) (bField w) := by
  unfold decode at h
  split at h
  · cases h
  · next o ho =>
    split_ifs at h with hz hu hp hc
    cases h
    exact ⟨o, ho, not_not.mp hz, by simpa using hu, by simpa using hp,
      fun hf => by simpa using fun hn => hc ⟨hf, hn⟩, rfl⟩

/-- Fields a format does not use are zero in the word `encode` packs (R89). -/
theorem encode_command {o : Opcode} {d a b : Operand} (h : unusedNonzero o.format d a b = false) :
    encode (o.command d a b) = packWord o.code d a b := by
  cases o with
  | FADD | FMUL | FPOW | QSOLVE | PADD | SMUL => rfl
  | FMOV | FLDC | FINV | FTR | FHTR | PFROMX | PDBL | PNEG =>
    obtain rfl : b = 0 := bne_eq_false_iff_eq.mp h
    rfl
  | FCMP | PCMP =>
    obtain rfl : d = 0 := bne_eq_false_iff_eq.mp h
    rfl
  | NOP =>
    obtain ⟨⟨rfl, rfl⟩, rfl⟩ : (d = 0 ∧ a = 0) ∧ b = 0 := by simpa [unusedNonzero, Opcode.format] using h
    rfl

/-- A word that decodes is the word of the command it decodes to (R81, R87, R90). -/
theorem encode_of_decode {w : Word} {i : Instr} (h : decode w = .ok i) : encode i = w := by
  obtain ⟨o, ho, hz, hu, -, -, rfl⟩ := decode_eq_ok h
  rw [encode_command hu, code_of_opcodeOf ho, packWord_fields hz]

/-! ### The port -/

/-- A `CMD` write that takes `FAULT` from 0 to 1 records the written word (R30, R231). -/
theorem faultCmd_of_issueCommand {s t : State} {w : Word} (hs : s.fault = false) (h : issueCommand w s = .next t)
    (ht : t.fault = true) : t.faultCmd = w := by
  obtain ⟨hf, -⟩ | ⟨-, r, -, hissue⟩ | ⟨-, i, hdec, hissue⟩ := issueCommand_cases w s
  · cases hs.symm.trans hf
  · cases hissue.symm.trans h
    rfl
  · obtain ⟨hkept, -, -⟩ | ⟨cause, rfl⟩ := keepsOrRaisesFault_of_exec (hissue.symm.trans h)
    · cases ht.symm.trans (hkept.trans hs)
    · exact encode_of_decode hdec

/-- `CTRL` stands at 0x208 and nowhere else (R56). -/
theorem portTarget_eq_ctrl {addr : Nat} (h : portTarget addr = .ctrl) : addr = 0x208 := by
  unfold portTarget at h
  split_ifs at h
  assumption

/-- In the faulted state a port write to anything but the soft reset leaves the fault record (R238). -/
theorem sameFault_of_writeTarget {p : PortTarget} {v : Word} {s t : State} (hs : s.fault = true)
    (hp : p = .ctrl → v.getLsbD 0 = false) (h : writeTarget p v s = .next t) : sameFault s t := by
  cases p with
  | fieldWord i k => cases h; exact ⟨rfl, rfl, rfl⟩
  | cmd => cases (issueCommand_of_faulted hs v).symm.trans h; exact ⟨rfl, rfl, rfl⟩
  | ctrl =>
    rw [writeTarget, hp rfl] at h
    cases h
    exact ⟨rfl, rfl, rfl⟩
  | status | id | faultCmd | reserved => cases h; exact ⟨rfl, rfl, rfl⟩

/-- An access leaves the fault record if, where it is performed, what it performs does. -/
theorem sameFault_of_hostAccess {addr bits : Nat} {s t : State} {perform : PortTarget → Outcome}
    (hperform : bits = 32 → perform (portTarget addr) = .next t → sameFault s t)
    (h : hostAccess addr bits s perform = .next t) : sameFault s t := by
  obtain ⟨-, hstop⟩ | ⟨-, -, hbus⟩ | ⟨-, -, hbits, hdone⟩ := hostAccess_cases addr bits s perform
  · cases hstop.symm.trans h
  · cases hbus.symm.trans h
    exact ⟨rfl, rfl, rfl⟩
  · exact hperform hbits (hdone.symm.trans h)

/-- Once `FAULT` is 1, every event but a reset leaves the fault record as it is (R238). -/
theorem sameFault_of_handleEvent {e : HostEvent} {s t : State} (hs : s.fault = true)
    (he : isResetEvent e = false) (h : handleEvent e s = .next t) : sameFault s t := by
  cases e with
  | hardReset => cases he
  | portRead addr bits =>
    rw [handleEvent] at h
    refine sameFault_of_hostAccess (fun _ hread => ?_) h
    cases hread
    exact ⟨rfl, rfl, rfl⟩
  | portWrite addr bits v =>
    rw [handleEvent] at h
    refine sameFault_of_hostAccess (fun hbits hwrite => ?_) h
    refine sameFault_of_writeTarget (s := respond .ack s) hs (fun hctrl => ?_) hwrite
    simpa [isResetEvent, portTarget_eq_ctrl hctrl, hbits] using he

/-- The read at 0x210 answers `FAULTCMD` (R56). -/
theorem portReads_faultCmd {v : Word} {s : State} (h : s.faultCmd = v) : portReads 0x210 v s := by
  rw [portReads_iff (by decide) (by decide)]
  exact h.symm

/-- Settles O12: the record is empty while `FAULT` is 0, is written by the faulting word, and stays until reset. -/
theorem faultCmdHoldsTheFaultingWord : Obligations.FaultCmdHoldsTheFaultingWord := by
  intro s hrecord
  refine ⟨portReads_faultCmd rfl, fun hs => ?_, fun w t hs h ht => ?_, fun e t hs he h => ?_⟩
  · obtain ⟨-, hzero⟩ := hrecord.1 hs
    exact portReads_faultCmd hzero
  · exact portReads_faultCmd (faultCmd_of_issueCommand (s := respond .ack s) hs h ht)
  · obtain ⟨-, -, hkept⟩ := sameFault_of_handleEvent hs he h
    exact portReads_faultCmd hkept

/-- An aligned 32-bit write inside the window is acknowledged and done at its target. -/
theorem handleEvent_portWrite_of_valid {addr : Nat} (h : addr < 0x400) (ha : addr % 4 = 0) (v : Word) (s : State) :
    handleEvent (.portWrite addr 32 v) s = writeTarget (portTarget addr) v (respond .ack s) :=
  hostAccess_of_valid h ha s fun p => writeTarget p v (respond .ack s)

/-- Settles O21, by the port's map at 0x20C (R56). -/
theorem idReadsItsConstant : Obligations.IdReadsItsConstant := by
  intro s v
  refine ⟨portReads_of_valid (by decide) (by decide) s, by decide, by decide, by decide, ?_⟩
  exact handleEvent_portWrite_of_valid (by decide) (by decide) v s

/-- A write to `CTRL` is the soft reset or nothing, by bit 0 of its value alone (R32). -/
theorem handleEvent_ctrlWrite (v : Word) (s : State) :
    handleEvent (.portWrite 0x208 32 v) s =
      .next (if v.getLsbD 0 then resetBlock (respond .ack s) else respond .ack s) :=
  handleEvent_portWrite_of_valid (by decide) (by decide) v s

theorem runEvents_hreset (s : State) : runEvents [hreset] s = .next (resetBlock (respond .ack s)) := rfl

/-- `STATUS` reads as zero after a reset (R261). -/
theorem statusWord_resetBlock (s : State) : statusWord (resetBlock s) = 0 := by
  simp only [statusWord, resetBlock_fault, resetBlock_fcause, resetBlock_result, resetBlock_eq, resetBlock_lt]
  decide

/-- Settles O23, by the two cases of bit 0. -/
theorem ctrlWord : Obligations.CtrlWord := by
  intro s v
  refine ⟨fun hset => ⟨?_, _, runEvents_hreset s, statusWord_resetBlock _, rfl, rfl⟩, fun hclear => ?_, ?_⟩
  · rw [handleEvent_ctrlWrite, hset, runEvents_hreset]
    rfl
  · rw [handleEvent_ctrlWrite, hclear]
    rfl
  · exact portReads_of_valid (by decide) (by decide) s

end Sys2Proof.Proofs

/-! The port's refusals and its ignored writes: the bus's error response (R62) and the words that are only written
or only read (R61). -/

namespace Sys2Proof.Proofs

open Sys2Proof.Machine Sys2Proof.Safety

/-- A misaligned or non-32-bit access inside the window gets the bus's error response, whatever it asks for (R62). -/
theorem hostAccess_of_misaligned {addr bits : Nat} (h : addr < 0x400) (hbad : addr % 4 ≠ 0 ∨ bits ≠ 32) (s : State)
    (perform : PortTarget → Outcome) : hostAccess addr bits s perform = .next (respond .busError s) := by
  rw [hostAccess, if_neg (by omega), if_pos hbad]

/-- Settles O18: the port refuses the access before it looks at what is read or written. -/
theorem misalignedAccessGetsABusError : Obligations.MisalignedAccessGetsABusError := by
  intro s addr bits v h hbad
  constructor
  · rw [handleEvent, hostAccess_of_misaligned h hbad, respond]
  · rw [handleEvent, hostAccess_of_misaligned h hbad, respond]

/-- An aligned 32-bit write to a word whose target ignores writes is acknowledged and does nothing else (R61). -/
theorem handleEvent_portWrite_of_ignored {addr : Nat} (h : addr < 0x400) (ha : addr % 4 = 0) {v : Word}
    (hignored : ∀ t, writeTarget (portTarget addr) v t = .next t) (s : State) :
    handleEvent (.portWrite addr 32 v) s = .next (respond .ack s) :=
  (handleEvent_portWrite_of_valid h ha v s).trans (hignored _)

/-- Settles O19, by the port's map at the five control words (R56). -/
theorem writeOnlyAndReadOnlyWords : Obligations.WriteOnlyAndReadOnlyWords := by
  intro s v
  refine ⟨?cmdRead, ?ctrlRead, ?statusWrite, ?idWrite, ?faultCmdWrite⟩
  case cmdRead | ctrlRead => exact portReads_of_valid (by decide) (by decide) s
  case statusWrite | idWrite | faultCmdWrite =>
    exact handleEvent_portWrite_of_ignored (by decide) (by decide) (fun _ => rfl) s

end Sys2Proof.Proofs

/-! The decode check as the spec lists it (R90), and the six port writes that load a field register (R59, R94). -/

namespace Sys2Proof.Proofs

open Sys2Proof.Machine Sys2Proof.Safety

/-! ### The decode check against R90's list of conditions -/

theorem opField_toNat (w : Word) : (opField w).toNat = w.toNat / 2 ^ 24 := by
  have hw := w.isLt
  rw [opField, BitVec.extractLsb'_toNat, Nat.shiftRight_eq_div_pow]
  omega

theorem zField_toNat (w : Word) : (zField w).toNat = w.toNat % 2 ^ 12 := by
  rw [zField, BitVec.extractLsb'_toNat, Nat.shiftRight_zero]

/-- R90's conditions, which `illegalWord` cuts out of the word by division, are about the decoder's own fields. -/
theorem illegalWord_iff_fields (w : Word) :
    illegalWord w ↔ illegalFields (opField w).toNat (dField w).val (aField w).val (bField w).val (zField w).toNat := by
  rw [opField_toNat, zField_toNat, dField, aField, bField, operandField_val, operandField_val, operandField_val]

/-- An opcode value no command has is reserved in R90's list too (R88). -/
theorem illegalFields_of_reserved {op : BitVec 8} (h : opcodeOf op = none) (d a b z : Nat) :
    illegalFields op.toNat d a b z := by
  refine .inl fun hmem => ?_
  unfold opcodeOf at h
  split at h
  case h_18 => simp_all
  all_goals cases h

/-! For each opcode, what R90 lists by opcode values is what the decoder checks by format (R82, R87). -/

theorem code_mem_opcodeValues (o : Opcode) : o.code.toNat ∈
    [0x00, 0x01, 0x02, 0x10, 0x11, 0x12, 0x13, 0x14, 0x15, 0x16, 0x20, 0x21, 0x30, 0x31, 0x32, 0x33, 0x40] := by
  cases o <;> decide

theorem unusedNonzero_iff (o : Opcode) (d a b : Operand) :
    unusedNonzero o.format d a b = true ↔
      (o.code.toNat = 0x00 ∧ (d.val ≠ 0 ∨ a.val ≠ 0 ∨ b.val ≠ 0)) ∨
        (o.code.toNat ∈ [0x01, 0x02, 0x13, 0x14, 0x15, 0x21, 0x31, 0x32] ∧ b.val ≠ 0) ∨
        (o.code.toNat ∈ [0x16, 0x33] ∧ d.val ≠ 0) := by
  cases o <;> simp [Opcode.code, Opcode.format, unusedNonzero, or_assoc]

theorem oddPoint_iff (o : Opcode) (d a b : Operand) :
    oddPoint o.format d a b = true ↔
      (o.code.toNat ∈ [0x21, 0x30, 0x31, 0x32, 0x40] ∧ d.val % 2 = 1) ∨
        (o.code.toNat ∈ [0x30, 0x31, 0x32, 0x33, 0x40] ∧ a.val % 2 = 1) ∨
        (o.code.toNat ∈ [0x30, 0x33] ∧ b.val % 2 = 1) := by
  cases o <;> simp [Opcode.code, Opcode.format, oddPoint, Operand.isEven, or_assoc]

theorem reservedConstant_iff (o : Opcode) (c : Operand) :
    (o = .FLDC ∧ c.isConstIndex = false) ↔ (o.code.toNat = 0x02 ∧ c.val > 6) := by
  cases o <;> simp [Opcode.code, Operand.isConstIndex]

/-- R90's conditions on a word with the opcode `o` are the checks the decoder makes. -/
theorem illegalFields_code (o : Opcode) (d a b : Operand) (z : BitVec 12) :
    illegalFields o.code.toNat d.val a.val b.val z.toNat ↔
      z ≠ 0 ∨ unusedNonzero o.format d a b = true ∨ oddPoint o.format d a b = true ∨
        (o = .FLDC ∧ a.isConstIndex = false) := by
  have hz : z ≠ 0 ↔ z.toNat ≠ 0 := not_congr BitVec.toNat_eq
  rw [unusedNonzero_iff, oddPoint_iff, reservedConstant_iff, hz]
  exact or_iff_right (not_not.mpr (code_mem_opcodeValues o))

/-- A word that passes the checks of R90 decodes: the converse of `decode_eq_ok`. -/
theorem decode_of_checks {w : Word} {o : Opcode} (ho : opcodeOf (opField w) = some o) (hz : zField w = 0)
    (hu : unusedNonzero o.format (dField w) (aField w) (bField w) = false)
    (hp : oddPoint o.format (dField w) (aField w) (bField w) = false)
    (hc : o = .FLDC → (aField w).isConstIndex = true) :
    decode w = .ok (o.command (dField w) (aField w) (bField w)) := by
  simp only [decode, ho]
  rw [if_neg (not_not.mpr hz), if_neg (by simp [hu]), if_neg (by simp [hp]), if_neg (by simpa using hc)]

/-- The words that decode are those meeting none of R90's conditions. -/
theorem exists_decode_ok_iff (w : Word) : (∃ i, decode w = .ok i) ↔ ¬ illegalWord w := by
  rw [illegalWord_iff_fields]
  constructor
  · rintro ⟨i, h⟩
    obtain ⟨o, ho, hz, hu, hp, hc, -⟩ := decode_eq_ok h
    rw [← code_of_opcodeOf ho, illegalFields_code]
    rintro (hz' | hu' | hp' | ⟨hf, hc'⟩)
    · exact hz' hz
    · exact Bool.noConfusion (hu.symm.trans hu')
    · exact Bool.noConfusion (hp.symm.trans hp')
    · exact Bool.noConfusion (hc'.symm.trans (hc hf))
  · intro h
    cases ho : opcodeOf (opField w) with
    | none => exact absurd (illegalFields_of_reserved ho _ _ _ _) h
    | some o =>
      rw [← code_of_opcodeOf ho, illegalFields_code] at h
      simp only [not_or, not_not, Bool.not_eq_true, not_and, Bool.not_eq_false] at h
      obtain ⟨hz, hu, hp, hc⟩ := h
      exact ⟨_, decode_of_checks ho hz hu hp hc⟩

theorem faultedFrom_raiseFault (cause : FaultCause) (w : Word) (s : State) :
    faultedFrom s cause w (raiseFault cause w s) :=
  ⟨rfl, rfl, rfl, rfl, rfl, ⟨rfl, rfl⟩, rfl, rfl, rfl⟩

/-- Settles O8: a written word is refused or runs by whether it decodes, which is whether R90's list admits it. -/
theorem decodeCheckFaultsIllegalWords : Obligations.DecodeCheckFaultsIllegalWords := by
  intro s w hs
  constructor
  · intro hill
    cases hdec : decode w with
    | ok i => exact absurd hill ((exists_decode_ok_iff w).mp ⟨i, hdec⟩)
    | error r => exact ⟨_, issueCommand_of_illegal hs hdec, faultedFrom_raiseFault .illegalCmd w s⟩
  · intro hleg
    obtain ⟨i, hdec⟩ := (exists_decode_ok_iff w).mpr hleg
    exact ⟨i, hdec, issueCommand_of_legal hs hdec⟩

/-! ### Port writes of register words -/

/-- Word `W_k` of `F[i]` stands at its address of R56, R57. -/
theorem portTarget_fieldWordAddr (i : Operand) (k : Fin 6) :
    portTarget (fieldWordAddr i k.val) = .fieldWord i k := by
  have hi := i.isLt
  have hk := k.isLt
  have haddr : fieldWordAddr i k.val = 0x20 * i.val + 4 * k.val := rfl
  have hword : fieldWordAddr i k.val % 0x20 / 4 = k.val := by omega
  have hreg : fieldWordAddr i k.val / 0x20 = i.val := by omega
  rw [portTarget, if_pos (by omega), dif_pos (by omega)]
  simp [hword, hreg]

/-- A port write of `W_k` replaces the bits of `W_k` in its register, and nothing else but the bus's answer (R59). -/
theorem handleEvent_fieldWordWrite (i : Operand) (k : Fin 6) (v : Word) (s : State) :
    handleEvent (.portWrite (fieldWordAddr i k.val) 32 v) s =
      .next (writeField i (setRegWord (readField i s) k v) (respond .ack s)) := by
  have hi := i.isLt
  have hk := k.isLt
  have haddr : fieldWordAddr i k.val = 0x20 * i.val + 4 * k.val := rfl
  rw [handleEvent_portWrite_of_valid (by omega) (by omega), portTarget_fieldWordAddr]
  rfl

theorem writeField_readField (i : Operand) (s : State) : writeField i (readField i s) s = s := by
  simp [writeField, readField]

theorem writeField_writeField (i : Operand) (u v : FieldElement) (s : State) :
    writeField i v (writeField i u s) = writeField i v s := by
  simp [writeField]

/-- Bit `j` of a register stands in `W_(5 - j/32)` (R57), so the bits `W_k` maps to are those (R59). -/
theorem getLsbD_wordMask (k : Fin 6) {j : Nat} (hj : j < 163) :
    (wordMask k).getLsbD j = decide (5 - j / 32 = k.val) := by
  have hones : (0xFFFFFFFF#192) = (BitVec.allOnes 32).setWidth 192 := rfl
  have hk := k.isLt
  rw [wordMask, hones, Bool.eq_iff_iff]
  simp only [BitVec.getLsbD_setWidth, BitVec.getLsbD_shiftLeft, BitVec.getLsbD_allOnes, Bool.and_eq_true,
    Bool.not_eq_true', decide_eq_true_eq, decide_eq_false_iff_not]
  omega

/-- A write of `W_k` sets the bits of that word and keeps the others (R59). -/
theorem getLsbD_setRegWord (v : FieldElement) (k : Fin 6) (w : Word) {j : Nat} (hj : j < 163) :
    (setRegWord v k w).getLsbD j = if 5 - j / 32 = k.val then w.getLsbD (j % 32) else v.getLsbD j := by
  rw [setRegWord, BitVec.getLsbD_or, BitVec.getLsbD_and, BitVec.getLsbD_not, getLsbD_wordMask k hj]
  have hk := k.isLt
  by_cases h : 5 - j / 32 = k.val
  · have hshift : ¬ j < 160 - 32 * k.val := by omega
    have hbit : j - (160 - 32 * k.val) = j % 32 := by omega
    simp [h, hj, hshift, hbit]
  · obtain hlow | hhigh : j < 160 - 32 * k.val ∨ 32 ≤ j - (160 - 32 * k.val) := by omega
    · simp [h, hj, hlow]
    · simp [h, hj, BitVec.getLsbD_of_ge w _ hhigh]

/-! ### `HWR` -/

/-- Word `W_k` of the literal of `HWR` (R94). -/
def literalWord (lit : BitVec 164) (k : Fin 6) : Word := ((lit.setWidth 192) >>> (160 - 32 * k.val)).setWidth 32

/-- The write of `HWR` that sends `W_k`. -/
def literalWrite (i : Operand) (lit : BitVec 164) (k : Fin 6) : HostEvent :=
  .portWrite (fieldWordAddr i k.val) 32 (literalWord lit k)

/-- The register's value `v` after the literal's `W_k` is written. -/
def storeLiteralWord (lit : BitVec 164) (v : FieldElement) (k : Fin 6) : FieldElement :=
  setRegWord v k (literalWord lit k)

theorem hwr_eq_map (i : Operand) (lit : BitVec 164) : hwr i lit = (List.finRange 6).map (literalWrite i lit) := rfl

/-- Any of the literal's words, written in any order, go to their register only. -/
theorem runEvents_literalWrites (i : Operand) (lit : BitVec 164) (ks : List (Fin 6)) (s : State) :
    ∃ r, runEvents (ks.map (literalWrite i lit)) s =
      .next (writeField i (ks.foldl (storeLiteralWord lit) (readField i s)) { s with response := r }) := by
  induction ks generalizing s with
  | nil => exact ⟨s.response, congrArg _ (writeField_readField i s).symm⟩
  | cons k ks ih =>
    obtain ⟨r, hr⟩ := ih (writeField i (storeLiteralWord lit (readField i s) k) (respond .ack s))
    refine ⟨r, ?_⟩
    rw [readField_writeField] at hr
    rw [List.map_cons, runEvents, literalWrite, handleEvent_fieldWordWrite]
    exact hr.trans (congrArg _ (writeField_writeField i _ _ { s with response := r }))

theorem getLsbD_literalWord (lit : BitVec 164) {k : Fin 6} {j : Nat} (h : 5 - j / 32 = k.val) (hj : j < 163) :
    (literalWord lit k).getLsbD (j % 32) = lit.getLsbD j := by
  have hpos : 160 - 32 * k.val + j % 32 = j := by omega
  have hword : j % 32 < 32 := Nat.mod_lt _ (by decide)
  have hext : j < 192 := by omega
  simp [literalWord, hpos, hword, hext]

/-- Once the words `ks` are written, a bit is the literal's if its word is among them. -/
theorem getLsbD_storeLiteralWords (lit : BitVec 164) (ks : List (Fin 6)) (v : FieldElement) {j : Nat} (hj : j < 163) :
    (ks.foldl (storeLiteralWord lit) v).getLsbD j =
      if 5 - j / 32 ∈ ks.map Fin.val then lit.getLsbD j else v.getLsbD j := by
  induction ks generalizing v with
  | nil => simp
  | cons k ks ih =>
    rw [List.foldl_cons, ih, storeLiteralWord, getLsbD_setRegWord v k _ hj]
    by_cases hk : 5 - j / 32 = k.val
    · simp [hk, getLsbD_literalWord lit hk hj]
    · simp [hk]

/-- All six words make up the literal without its bit 163, whatever the register held (R59, R95). -/
theorem storeLiteralWords_finRange (lit : BitVec 164) (v : FieldElement) :
    (List.finRange 6).foldl (storeLiteralWord lit) v = lit.setWidth 163 := by
  apply BitVec.eq_of_getLsbD_eq
  intro j hj
  have hmem : 5 - j / 32 ∈ (List.finRange 6).map Fin.val := by simp; omega
  rw [getLsbD_storeLiteralWords lit _ v hj, if_pos hmem]
  simp [hj]

/-- Settles O16: the six writes store the literal's six words, and no other register or field. -/
theorem hwrLoadsTheRegister : Obligations.HwrLoadsTheRegister := by
  intro s i lit
  obtain ⟨r, hrun⟩ := runEvents_literalWrites i lit (List.finRange 6) s
  rw [storeLiteralWords_finRange] at hrun
  refine ⟨_, hrun, readField_writeField _ i _, fun j hj => ?_, ⟨rfl, rfl⟩, ⟨rfl, rfl, rfl⟩, rfl, rfl, rfl⟩
  exact readField_writeField_of_ne _ (by simpa using hj) _

end Sys2Proof.Proofs

/-! Natural numbers as polynomials over GF(2) (R10): bit `i` is the coefficient of `x^i`. Exclusive or, shift and the
carry-less product of the model are the sum, the product by a power of `x` and the product of polynomials. -/

namespace Sys2Proof.Proofs

open Sys2Proof.Machine Sys2Proof.Safety Polynomial

/-! ### The polynomial of a number -/

/-- The polynomial over GF(2) whose coefficients are the bits of `n`. -/
noncomputable def bitPoly (n : Nat) : (ZMod 2)[X] :=
  ∑ i ∈ Finset.range n, if n.testBit i then X ^ i else 0

theorem coeff_bitPoly (n i : Nat) : (bitPoly n).coeff i = if n.testBit i then 1 else 0 := by
  have hterm (j : Nat) :
      (if n.testBit j then X ^ j else 0 : (ZMod 2)[X]).coeff i = if i = j then if n.testBit i then 1 else 0 else 0 := by
    by_cases hij : i = j
    · subst hij
      split <;> simp
    · split <;> simp [coeff_X_pow, hij]
  rw [bitPoly, finsetSum_coeff, Finset.sum_congr rfl fun j _ => hterm j, Finset.sum_ite_eq]
  split
  · rfl
  · next hi =>
    have hle : n ≤ i := by simpa using hi
    rw [Nat.testBit_lt_two_pow (hle.trans_lt Nat.lt_two_pow_self)]
    rfl

theorem testBit_iff_coeff_bitPoly (n i : Nat) : n.testBit i = true ↔ (bitPoly n).coeff i = 1 := by
  rw [coeff_bitPoly]
  split <;> simp_all

theorem bitPoly_injective : Function.Injective bitPoly := by
  intro m n h
  refine Nat.eq_of_testBit_eq fun i => ?_
  rw [Bool.eq_iff_iff, testBit_iff_coeff_bitPoly, testBit_iff_coeff_bitPoly, h]

@[simp] theorem bitPoly_zero : bitPoly 0 = 0 := rfl

@[simp] theorem bitPoly_one : bitPoly 1 = 1 := by simp [bitPoly]

theorem bitPoly_xor (m n : Nat) : bitPoly (m ^^^ n) = bitPoly m + bitPoly n := by
  ext i
  rw [coeff_add, coeff_bitPoly, coeff_bitPoly, coeff_bitPoly, Nat.testBit_xor]
  cases m.testBit i <;> cases n.testBit i <;> decide

theorem bitPoly_shiftLeft (n k : Nat) : bitPoly (n <<< k) = X ^ k * bitPoly n := by
  ext i
  rw [coeff_X_pow_mul', coeff_bitPoly, coeff_bitPoly, Nat.testBit_shiftLeft]
  by_cases h : k ≤ i <;> simp [h]

theorem bitPoly_two_pow (k : Nat) : bitPoly (2 ^ k) = X ^ k := by
  rw [← Nat.one_shiftLeft, bitPoly_shiftLeft, bitPoly_one, mul_one]

/-- A polynomial over GF(2) is the polynomial of a number: the sum of the monomials it has. -/
theorem bitPoly_surjective : Function.Surjective bitPoly := by
  intro p
  induction p using Polynomial.induction_on' with
  | add p q hp hq =>
    obtain ⟨m, rfl⟩ := hp
    obtain ⟨n, rfl⟩ := hq
    exact ⟨m ^^^ n, bitPoly_xor m n⟩
  | monomial k c =>
    obtain rfl | rfl : c = 0 ∨ c = 1 := by revert c; decide
    · exact ⟨0, by simp⟩
    · exact ⟨2 ^ k, by rw [bitPoly_two_pow, X_pow_eq_monomial]⟩

/-- The lowest bit and the rest: the step of a loop that reads a number bit by bit. -/
theorem bitPoly_eq_lowBit_add (n : Nat) : bitPoly n = (if n % 2 = 1 then 1 else 0) + X * bitPoly (n / 2) := by
  ext i
  rw [coeff_add, coeff_bitPoly]
  cases i with
  | zero => by_cases h : n % 2 = 1 <;> simp [h]
  | succ i => by_cases h : n % 2 = 1 <;> simp [h, coeff_bitPoly, coeff_one, Nat.testBit_add_one]

theorem degree_bitPoly_lt_iff (n k : Nat) : (bitPoly n).degree < k ↔ n < 2 ^ k := by
  rw [degree_lt_iff_coeff_zero]
  constructor
  · intro h
    refine Nat.lt_pow_two_of_testBit n fun i hi => ?_
    simpa [coeff_bitPoly] using h i hi
  · intro h i hi
    rw [coeff_bitPoly, Nat.testBit_lt_two_pow (h.trans_le (Nat.pow_le_pow_right two_pos hi))]
    rfl

/-! ### The carry-less product -/

theorem bitPoly_carrylessLoop (n a b : Nat) (hb : b < 2 ^ n) :
    bitPoly (carrylessLoop n a b) = bitPoly a * bitPoly b := by
  induction n generalizing a b with
  | zero =>
    obtain rfl : b = 0 := by simpa using hb
    simp [carrylessLoop]
  | succ n ih =>
    have hhalf : b / 2 < 2 ^ n := by omega
    rw [carrylessLoop, bitPoly_xor, ih _ _ hhalf, bitPoly_shiftLeft, bitPoly_eq_lowBit_add b]
    split <;> simp <;> ring

/-- The carry-less product of the statements is the product of polynomials over GF(2) (R104). -/
theorem bitPoly_carryless (a b : Nat) : bitPoly (carryless a b) = bitPoly a * bitPoly b :=
  bitPoly_carrylessLoop _ a b Nat.lt_log2_self

end Sys2Proof.Proofs

/-! The field elements as residues of polynomials over GF(2) modulo the reduction polynomial (R104): the model's sum,
product and power are those of the quotient ring, and a residue is one element's. -/

namespace Sys2Proof.Proofs

open Sys2Proof.Machine Sys2Proof.Safety Polynomial

/-! ### The reduction polynomial -/

/-- The reduction polynomial `f(x)` as R104 writes it; irreducible to Lean, which would else unfold `X ^ 163`. -/
@[irreducible] noncomputable def fieldPoly : (ZMod 2)[X] := X ^ 163 + X ^ 7 + X ^ 6 + X ^ 3 + 1

theorem bitPoly_fPoly : bitPoly fPoly = fieldPoly := by
  have hbits : fPoly = 2 ^ 163 ^^^ 2 ^ 7 ^^^ 2 ^ 6 ^^^ 2 ^ 3 ^^^ 1 := by decide
  unfold fieldPoly
  simp only [hbits, bitPoly_xor, bitPoly_two_pow, bitPoly_one]

theorem natDegree_fieldPoly : fieldPoly.natDegree = 163 := by
  unfold fieldPoly
  compute_degree!

theorem monic_fieldPoly : fieldPoly.Monic := by
  unfold fieldPoly
  monicity!

/-! ### Elements as residues -/

/-- The quotient of the polynomials over GF(2) by the reduction polynomial. -/
abbrev FieldRing : Type := AdjoinRoot fieldPoly

/-- The residue of the polynomial that a number stands for. -/
noncomputable def residueNat (n : Nat) : FieldRing := AdjoinRoot.mk fieldPoly (bitPoly n)

/-- The residue a field element stands for. -/
noncomputable def residue (a : FieldElement) : FieldRing := residueNat a.toNat

@[simp] theorem residueNat_zero : residueNat 0 = 0 := by rw [residueNat, bitPoly_zero, map_zero]

@[simp] theorem residueNat_one : residueNat 1 = 1 := by rw [residueNat, bitPoly_one, map_one]

@[simp] theorem residueNat_fPoly : residueNat fPoly = 0 := by rw [residueNat, bitPoly_fPoly, AdjoinRoot.mk_self]

theorem residueNat_xor (m n : Nat) : residueNat (m ^^^ n) = residueNat m + residueNat n := by
  rw [residueNat, bitPoly_xor, map_add, residueNat, residueNat]

theorem residueNat_shiftLeft (n k : Nat) :
    residueNat (n <<< k) = AdjoinRoot.root fieldPoly ^ k * residueNat n := by
  rw [residueNat, bitPoly_shiftLeft, map_mul, map_pow, AdjoinRoot.mk_X, residueNat]

theorem residueNat_eq_lowBit_add (n : Nat) :
    residueNat n = (if n % 2 = 1 then 1 else 0) + AdjoinRoot.root fieldPoly * residueNat (n / 2) := by
  rw [residueNat, bitPoly_eq_lowBit_add, map_add, map_mul, AdjoinRoot.mk_X, residueNat]
  split <;> simp

/-- Numbers of degree below 163 have different residues. -/
theorem eq_of_residueNat_eq {m n : Nat} (hm : m < 2 ^ 163) (hn : n < 2 ^ 163) (h : residueNat m = residueNat n) :
    m = n := by
  have hdvd : fieldPoly ∣ bitPoly (m ^^^ n) := by
    rw [← AdjoinRoot.mk_eq_zero]
    change residueNat (m ^^^ n) = 0
    rw [residueNat_xor, h, ← residueNat_xor, Nat.xor_self, residueNat_zero]
  have hdeg : (bitPoly (m ^^^ n)).degree < fieldPoly.degree := by
    rw [degree_eq_natDegree monic_fieldPoly.ne_zero, natDegree_fieldPoly, degree_bitPoly_lt_iff]
    exact Nat.xor_lt_two_pow hm hn
  have hzero : bitPoly (m ^^^ n) = 0 := eq_zero_of_dvd_of_degree_lt hdvd hdeg
  exact Nat.xor_eq_zero_iff.mp (bitPoly_injective (hzero.trans bitPoly_zero.symm))

theorem residue_injective : Function.Injective residue := fun a b h =>
  BitVec.eq_of_toNat_eq (eq_of_residueNat_eq a.isLt b.isLt h)

@[simp] theorem residue_zero : residue 0 = 0 := residueNat_zero

@[simp] theorem residue_one : residue 1 = 1 := residueNat_one

theorem residue_eq_zero_iff (a : FieldElement) : residue a = 0 ↔ a = 0 := by
  rw [← residue_zero, residue_injective.eq_iff]

@[simp] theorem residue_feAdd (a b : FieldElement) : residue (feAdd a b) = residue a + residue b := by
  rw [residue, feAdd, BitVec.toNat_xor, residueNat_xor, residue, residue]

/-! ### The product -/

/-- A shift out of the top bit is the shift less bit 163. -/
theorem toNat_shiftLeft_one (a : FieldElement) :
    (a <<< 1).toNat = if a.msb then a.toNat <<< 1 ^^^ 2 ^ 163 else a.toNat <<< 1 := by
  have ha := a.isLt
  rw [BitVec.toNat_shiftLeft]
  cases hm : a.msb with
  | true =>
    rw [BitVec.msb_eq_getLsbD_last, BitVec.getLsbD] at hm
    refine Nat.eq_of_testBit_eq fun i => ?_
    rw [Nat.testBit_mod_two_pow, if_pos rfl, Nat.testBit_xor, Nat.testBit_two_pow, Nat.testBit_shiftLeft]
    obtain hi | rfl | hi := lt_trichotomy i 163
    · simp [hi, hi.ne']
    · simp [hm]
    · have hhigh : a.toNat.testBit (i - 1) = false :=
        Nat.testBit_lt_two_pow (ha.trans_le (Nat.pow_le_pow_right two_pos (by omega)))
      simp [hi.ne, hi.not_gt, hhigh]
  | false =>
    rw [BitVec.msb_eq_false_iff_two_mul_lt] at hm
    rw [Nat.mod_eq_of_lt (by omega)]
    rfl

/-- Doubling with its reduction is the shift, less the reduction polynomial if bit 163 came out set (R104). -/
theorem toNat_feDouble (a : FieldElement) :
    (feDouble a).toNat = if a.msb then a.toNat <<< 1 ^^^ fPoly else a.toNat <<< 1 := by
  have hpoly : fPoly = 2 ^ 163 ^^^ fLow.toNat := by decide
  rw [feDouble]
  split
  · next hm => rw [BitVec.toNat_xor, toNat_shiftLeft_one, if_pos hm, hpoly, Nat.xor_assoc]
  · next hm => rw [toNat_shiftLeft_one, if_neg hm]

theorem residue_feDouble (a : FieldElement) :
    residue (feDouble a) = AdjoinRoot.root fieldPoly * residue a := by
  rw [residue, toNat_feDouble]
  split
  · rw [residueNat_xor, residueNat_fPoly, add_zero, residueNat_shiftLeft, pow_one, residue]
  · rw [residueNat_shiftLeft, pow_one, residue]

theorem residue_feMulLoop (n : Nat) (acc a b : FieldElement) (hb : b.toNat < 2 ^ n) :
    residue (feMulLoop n acc a b) = residue acc + residue a * residue b := by
  induction n generalizing acc a b with
  | zero =>
    obtain rfl : b = 0 := BitVec.eq_of_toNat_eq (by simpa using hb)
    rw [feMulLoop_zero, residue_zero, mul_zero, add_zero]
  | succ n ih =>
    have hhalf : (b >>> 1).toNat = b.toNat / 2 := by simp [Nat.shiftRight_eq_div_pow]
    have hb' : residue b = (if b.getLsbD 0 then 1 else 0) + AdjoinRoot.root fieldPoly * residue (b >>> 1) := by
      rw [residue, residueNat_eq_lowBit_add, residue, hhalf]
      simp [BitVec.getLsbD, Nat.testBit_zero]
    rw [feMulLoop_succ, ih _ _ _ (by omega), residue_feDouble, hb']
    split <;> simp <;> ring

/-- The model's product is the product of residues (R104). -/
@[simp] theorem residue_feMul (a b : FieldElement) : residue (feMul a b) = residue a * residue b := by
  rw [feMul, residue_feMulLoop _ _ _ _ b.isLt, residue_zero, zero_add]

/-- An element has the residue of a number if the number is a carry-less multiple of `F_POLY` plus the element. -/
theorem residueNat_eq_residue_iff (m : Nat) (r : FieldElement) :
    residueNat m = residue r ↔ ∃ q, m = carryless q fPoly ^^^ r.toNat := by
  have hq (q : Nat) : m = carryless q fPoly ^^^ r.toNat ↔ bitPoly m - bitPoly r.toNat = fieldPoly * bitPoly q := by
    rw [← bitPoly_injective.eq_iff, bitPoly_xor, bitPoly_carryless, bitPoly_fPoly, sub_eq_iff_eq_add, mul_comm]
  rw [residue, residueNat, residueNat, AdjoinRoot.mk_eq_mk, dvd_def, bitPoly_surjective.exists]
  exact exists_congr fun q => (hq q).symm

/-- Settles O46: the product of residues is the residue of the carry-less product, and a residue is one element's. -/
theorem productIsTheRemainder : Obligations.ProductIsTheRemainder := by
  intro a b r
  have hproduct : residueNat (carryless a.toNat b.toNat) = residue (feMul a b) := by
    rw [residueNat, bitPoly_carryless, map_mul, residue_feMul]
    rfl
  rw [← residueNat_eq_residue_iff, hproduct, residue_injective.eq_iff, eq_comm]

/-! ### Powers -/

theorem residue_fePowLoop (n : Nat) (r a : FieldElement) (k : Nat) (hk : k < 2 ^ n) :
    residue (fePowLoop n r a k) = residue r * residue a ^ k := by
  induction n generalizing r a k with
  | zero =>
    obtain rfl : k = 0 := by simpa using hk
    rw [fePowLoop_zero, pow_zero, mul_one]
  | succ n ih =>
    rw [fePowLoop_succ]
    split
    · next h => rw [h, pow_zero, mul_one]
    · have hsplit : residue a ^ k = residue a ^ (k % 2) * (residue a * residue a) ^ (k / 2) := by
        rw [← pow_two, ← pow_mul, ← pow_add, Nat.mod_add_div]
      rw [ih _ _ _ (by omega), feSquare, residue_feMul, hsplit, ← mul_assoc]
      obtain h | h := Nat.mod_two_eq_zero_or_one k <;> simp [h]

/-- The model's power is the power of residues (R107). -/
@[simp] theorem residue_fePow (a : FieldElement) (k : Nat) : residue (fePow a k) = residue a ^ k := by
  rw [fePow, residue_fePowLoop _ _ _ _ Nat.lt_log2_self, residue_one, one_mul]

theorem residue_squared (a : FieldElement) (n : Nat) : residue (squared a n) = residue a ^ 2 ^ n := by
  induction n with
  | zero => simp [squared]
  | succ n ih => rw [squared, feSquare, residue_feMul, ih, ← pow_two, ← pow_mul, ← pow_succ]

end Sys2Proof.Proofs

/-! The reduction polynomial is irreducible (R7, R110), by Rabin's test: its degree 163 is prime, `x^(2^163)` is `x`
modulo it, as the model's own squarings show, and neither element of GF(2) is a root. -/

namespace Sys2Proof.Proofs

open Sys2Proof.Machine Sys2Proof.Safety Polynomial

/-- Rabin's test for a prime degree: the irreducible factors of a divisor of `X^(2^n) - X` have degrees that divide `n`,
and a factor of degree 1 would have a root. -/
theorem irreducible_of_dvd_X_pow_sub_X {p : (ZMod 2)[X]} {n : Nat} (hdeg : p.natDegree = n) (hn : n.Prime)
    (hdvd : p ∣ X ^ 2 ^ n - X) (hroot : ∀ c, p.eval c ≠ 0) : Irreducible p := by
  have hpos : 0 < p.natDegree := hdeg ▸ hn.pos
  have hp : p ≠ 0 := ne_zero_of_natDegree_gt hpos
  obtain ⟨g, hg, hgp⟩ := WfDvdMonoid.exists_irreducible_factor (not_isUnit_of_natDegree_pos p hpos) hp
  have hgdeg : g.natDegree ∣ n := by
    refine hg.natDegree_dvd_of_dvd_X_pow_card_pow_sub_X ?_
    rw [Nat.card_zmod]
    exact hgp.trans hdvd
  obtain hlinear | hfull := (Nat.dvd_prime hn).mp hgdeg
  · obtain ⟨c, hc⟩ := exists_root_of_degree_eq_one (degree_eq_iff_natDegree_eq_of_pos one_pos |>.mpr hlinear)
    exact absurd (hc.dvd hgp) (hroot c)
  · exact (associated_of_dvd_of_natDegree_le hgp hp (by omega)).irreducible hg

/-- The element `x`, squared `n` times, stands for `x^(2^n)`. -/
theorem fieldPoly_dvd_of_squared_eq {n : Nat} (h : squared 2 n = 2) : fieldPoly ∣ X ^ 2 ^ n - X := by
  have hx : residue 2 = AdjoinRoot.mk fieldPoly X := by
    rw [← pow_one X, ← bitPoly_two_pow]
    rfl
  rw [← AdjoinRoot.mk_eq_mk, map_pow, ← hx, ← residue_squared, h]

/-- The one computation of the test: 163 squarings bring `x` back to itself. -/
theorem squared_two_163 : squared 2 163 = 2 := by decide +kernel

theorem eval_fieldPoly_ne_zero (c : ZMod 2) : fieldPoly.eval c ≠ 0 := by
  unfold fieldPoly
  simp only [eval_add, eval_pow, eval_X, eval_one]
  obtain rfl | rfl : c = 0 ∨ c = 1 := by revert c; decide
  · simp
  · simp only [one_pow]
    decide

theorem irreducible_fieldPoly : Irreducible fieldPoly :=
  irreducible_of_dvd_X_pow_sub_X natDegree_fieldPoly (by norm_num) (fieldPoly_dvd_of_squared_eq squared_two_163)
    eval_fieldPoly_ne_zero

/-- Fermat's theorem in the field of `2^deg p` elements that an irreducible polynomial `p` gives. -/
theorem pow_card_sub_one_of_irreducible {p : (ZMod 2)[X]} (hp : Irreducible p) {x : AdjoinRoot p} (hx : x ≠ 0) :
    x ^ (2 ^ p.natDegree - 1) = 1 := by
  have : Fact (Irreducible p) := ⟨hp⟩
  have : Module.Finite (ZMod 2) (AdjoinRoot p) := (AdjoinRoot.powerBasis hp.ne_zero).finite
  have : Finite (AdjoinRoot p) := Module.finite_of_finite (ZMod 2)
  have hcard : Nat.card (AdjoinRoot p) = 2 ^ p.natDegree := by
    rw [Module.natCard_eq_pow_finrank (K := ZMod 2), Nat.card_zmod]
    exact congrArg _ finrank_quotient_span_eq_natDegree
  let := Fintype.ofFinite (AdjoinRoot p)
  rw [← hcard, ← Fintype.card_eq_nat_card]
  exact FiniteField.pow_card_sub_one_eq_one x hx

/-- The power of R110's last paragraph is an inverse. -/
theorem residue_mul_pow_eq_one {a : FieldElement} (ha : a ≠ 0) : residue a * residue a ^ (2 ^ 163 - 2) = 1 := by
  have hfermat := pow_card_sub_one_of_irreducible irreducible_fieldPoly (mt (residue_eq_zero_iff a).mp ha)
  have hexp : 2 ^ 163 - 2 + 1 = 2 ^ 163 - 1 := by norm_num
  rwa [← pow_succ', hexp, ← natDegree_fieldPoly]

end Sys2Proof.Proofs

/-! The Euclidean loop of `fe_inv` (R110): its invariant, its measure, and the bound on its result. -/

namespace Sys2Proof.Proofs

open Sys2Proof.Machine Sys2Proof.Safety Polynomial

/-! ### One pass of the loop -/

theorem feInvLoop_of_eq_one (n v g1 g2 : Nat) : feInvLoop n 1 v g1 g2 = g1 := by
  cases n <;> rfl

/-- With `deg u` at least `deg v`, a pass reduces `u`. -/
theorem feInvLoop_succ_of_le {u v : Nat} (hu : u ≠ 1) (h : v.log2 ≤ u.log2) (n g1 g2 : Nat) :
    feInvLoop (n + 1) u v g1 g2 =
      feInvLoop n (u ^^^ v <<< (u.log2 - v.log2)) v (g1 ^^^ g2 <<< (u.log2 - v.log2)) g2 := by
  rw [feInvLoop, if_neg hu, if_neg h.not_gt]

/-- With `deg u` below `deg v`, a pass is that of the two swapped. -/
theorem feInvLoop_succ_of_lt {u v : Nat} (hu : u ≠ 1) (h : u.log2 < v.log2) (n g1 g2 : Nat) :
    feInvLoop (n + 1) u v g1 g2 =
      feInvLoop n (v ^^^ u <<< (v.log2 - u.log2)) u (g2 ^^^ g1 <<< (v.log2 - u.log2)) g1 := by
  rw [feInvLoop, if_neg hu, if_pos h]

/-- Aligned by a shift, the highest bits cancel. -/
theorem xor_shiftLeft_lt {u v : Nat} (hu : u ≠ 0) (hv : v ≠ 0) (h : v.log2 ≤ u.log2) :
    u ^^^ v <<< (u.log2 - v.log2) < 2 ^ u.log2 := by
  refine Nat.lt_pow_two_of_testBit _ fun i hi => ?_
  rw [Nat.testBit_xor, Nat.testBit_shiftLeft]
  obtain rfl | hi := hi.eq_or_lt
  · simp [Nat.sub_sub_self h, Nat.testBit_log2 hu, Nat.testBit_log2 hv]
  · have hubit : u.testBit i = false :=
      Nat.testBit_lt_two_pow (Nat.lt_log2_self.trans_le (Nat.pow_le_pow_right two_pos hi))
    have hvbit : v.testBit (i - (u.log2 - v.log2)) = false :=
      Nat.testBit_lt_two_pow (Nat.lt_log2_self.trans_le (Nat.pow_le_pow_right two_pos (by omega)))
    rw [hubit, hvbit, Bool.and_false, Bool.xor_false]

/-! ### The invariant -/

/-- What the loop keeps: `u` and `v` are coprime; `a·g1 ≡ u` and `a·g2 ≡ v`, as R110's comment says; and
`deg g1 + deg v` and `deg g2 + deg u` are at most 163, which bounds the degree of the result. -/
structure EuclidInv (a : FieldElement) (u v g1 g2 : Nat) : Prop where
  coprime : IsCoprime (bitPoly u) (bitPoly v)
  mul_left : residue a * residueNat g1 = residueNat u
  mul_right : residue a * residueNat g2 = residueNat v
  bound_left : g1 <<< v.log2 < 2 ^ 164
  bound_right : g2 <<< u.log2 < 2 ^ 164

theorem EuclidInv.symm {a : FieldElement} {u v g1 g2 : Nat} (h : EuclidInv a u v g1 g2) : EuclidInv a v u g2 g1 :=
  ⟨h.coprime.symm, h.mul_right, h.mul_left, h.bound_right, h.bound_left⟩

/-- Only the constant 1 is coprime to 0. -/
theorem ne_zero_of_isCoprime_bitPoly {u v : Nat} (h : IsCoprime (bitPoly u) (bitPoly v)) (hv : 1 < v) : u ≠ 0 := by
  rintro rfl
  rw [bitPoly_zero, isCoprime_zero_left] at h
  have hdeg : (bitPoly v).degree < (1 : Nat) := by
    rw [degree_eq_zero_of_isUnit h]
    decide
  rw [degree_bitPoly_lt_iff] at hdeg
  omega

theorem EuclidInv.ne_zero {a : FieldElement} {u v g1 g2 : Nat} (h : EuclidInv a u v g1 g2) (hv : 1 < v) : u ≠ 0 :=
  ne_zero_of_isCoprime_bitPoly h.coprime hv

/-- A pass that reduces `u` lowers its degree and keeps the invariant. -/
theorem EuclidInv.reduce {a : FieldElement} {u v g1 g2 : Nat} (h : EuclidInv a u v g1 g2) (hv : 1 < v)
    (hle : v.log2 ≤ u.log2) :
    (u ^^^ v <<< (u.log2 - v.log2)).log2 < u.log2 ∧
      EuclidInv a (u ^^^ v <<< (u.log2 - v.log2)) v (g1 ^^^ g2 <<< (u.log2 - v.log2)) g2 := by
  have hcoprime : IsCoprime (bitPoly (u ^^^ v <<< (u.log2 - v.log2))) (bitPoly v) := by
    rw [bitPoly_xor, bitPoly_shiftLeft, mul_comm]
    exact h.coprime.add_mul_left_left _
  have hdeg : (u ^^^ v <<< (u.log2 - v.log2)).log2 < u.log2 := by
    rw [Nat.log2_lt (ne_zero_of_isCoprime_bitPoly hcoprime hv)]
    exact xor_shiftLeft_lt (h.ne_zero hv) (by omega) hle
  refine ⟨hdeg, hcoprime, ?mul_left, h.mul_right, ?bound_left, ?bound_right⟩
  case mul_left =>
    rw [residueNat_xor, residueNat_xor, residueNat_shiftLeft, residueNat_shiftLeft, ← h.mul_left, ← h.mul_right]
    ring
  case bound_left =>
    rw [Nat.shiftLeft_xor_distrib, ← Nat.shiftLeft_add, Nat.sub_add_cancel hle]
    exact Nat.xor_lt_two_pow h.bound_left h.bound_right
  case bound_right =>
    refine lt_of_le_of_lt ?_ h.bound_right
    rw [Nat.shiftLeft_eq g2, Nat.shiftLeft_eq g2]
    exact Nat.mul_le_mul_left _ (Nat.pow_le_pow_right two_pos hdeg.le)

/-- The loop starts in the invariant, the reduction polynomial being irreducible. -/
theorem EuclidInv.init {a : FieldElement} (ha : a ≠ 0) : EuclidInv a a.toNat fPoly 1 0 where
  coprime := by
    rw [isCoprime_comm, bitPoly_fPoly, irreducible_fieldPoly.coprime_iff_not_dvd, ← AdjoinRoot.mk_eq_zero]
    exact mt (residue_eq_zero_iff a).mp ha
  mul_left := by rw [residueNat_one, mul_one, residue]
  mul_right := by rw [residueNat_zero, mul_zero, residueNat_fPoly]
  bound_left := by decide
  bound_right := by rw [Nat.zero_shiftLeft]; decide

/-! ### The loop's result -/

/-- The degrees of `u` and `v` are fuel enough, and the loop's result is an inverse of degree below 163. -/
theorem feInvLoop_spec {a : FieldElement} {n u v g1 g2 : Nat} (h : EuclidInv a u v g1 g2) (hv : 1 < v)
    (hn : u.log2 + v.log2 ≤ n) :
    feInvLoop n u v g1 g2 < 2 ^ 163 ∧ residue a * residueNat (feInvLoop n u v g1 g2) = 1 := by
  have hvdeg : 1 ≤ v.log2 := (Nat.le_log2 (by omega)).mpr hv
  induction n generalizing u v g1 g2 with
  | zero => omega
  | succ n ih =>
    by_cases hu : u = 1
    · subst hu
      have hbound := h.bound_left
      have hdouble : g1 * 2 ^ 1 ≤ g1 * 2 ^ v.log2 := Nat.mul_le_mul_left _ (Nat.pow_le_pow_right two_pos hvdeg)
      rw [Nat.shiftLeft_eq] at hbound
      rw [feInvLoop_of_eq_one, h.mul_left, residueNat_one]
      exact ⟨by omega, rfl⟩
    · have hu' : 1 < u := by
        have := h.ne_zero hv
        omega
      have hudeg : 1 ≤ u.log2 := (Nat.le_log2 (by omega)).mpr hu'
      obtain hle | hlt := le_or_gt v.log2 u.log2
      · obtain ⟨hdeg, hinv⟩ := h.reduce hv hle
        rw [feInvLoop_succ_of_le hu hle]
        exact ih hinv hv (by omega) hvdeg
      · obtain ⟨hdeg, hinv⟩ := h.symm.reduce hu' hlt.le
        rw [feInvLoop_succ_of_lt hu hlt]
        exact ih hinv hu' (by omega) hudeg

theorem residue_mul_feInv {a : FieldElement} (ha : a ≠ 0) : residue a * residue (feInv a) = 1 := by
  have hdeg : a.toNat.log2 < 163 := (Nat.log2_lt (EuclidInv.init ha |>.ne_zero (by decide))).mpr a.isLt
  have hf : fPoly.log2 = 163 := by decide
  obtain ⟨hlt, hmul⟩ := feInvLoop_spec (n := 325) (EuclidInv.init ha) (by decide) (by omega)
  rwa [feInv, residue, residue, BitVec.toNat_ofNat, Nat.mod_eq_of_lt hlt]

/-- Settles O49: the loop's result is an inverse, a power of `a` is another, and inverses are unique. -/
theorem inverseIsTheInverse : Obligations.InverseIsTheInverse := by
  intro a ha
  have hunique (g : FieldElement) (hg : residue a * residue g = 1) : g = feInv a :=
    residue_injective (left_inv_eq_right_inv ((mul_comm _ _).trans hg) (residue_mul_feInv ha))
  refine ⟨residue_injective ?_, fun g hg => hunique g ?_, hunique _ ?_⟩
  · rw [residue_feMul, residue_mul_feInv ha, residue_one]
  · rw [← residue_feMul, hg, residue_one]
  · rw [residue_fePow, residue_mul_pow_eq_one ha]

end Sys2Proof.Proofs

/-! One event at a time (R63, R65, R244), how a command ends (R15, R231), and the block in the faulted state (R238). -/

namespace Sys2Proof.Proofs

open Sys2Proof.Machine Sys2Proof.Safety

/-! ### How a command ends -/

/-- A command ends with the fault record and the host's view as they were, or in a fault entry by its own word, with
one of the two causes (R15, R231, R232). -/
inductive CommandEnding (i : Instr) (s : State) : State → Prop
  | unfaulted {t : State} (hrecord : sameFault s t) (hhost : sameHost s t) : CommandEnding i s t
  | faulted {cause : FaultCause} (hcause : cause = .illegalCmd ∨ cause = .groupLaw) :
      CommandEnding i s (raiseFault cause (encode i) s)

theorem CommandEnding.complete_writeField (i : Instr) (d : Operand) (v : FieldElement) (s : State) :
    CommandEnding i s (complete (writeField d v s)) :=
  .unfaulted ⟨rfl, rfl, rfl⟩ ⟨rfl, rfl, rfl⟩

theorem CommandEnding.complete_writePoint (i : Instr) (d : Operand) (p : Point) (s : State) :
    CommandEnding i s (complete (writePoint d p s)) :=
  .unfaulted ⟨rfl, rfl, rfl⟩ ⟨rfl, rfl, rfl⟩

theorem CommandEnding.degenerate (i : Instr) (r : ResultCode) (s : State) :
    CommandEnding i s (degenerate r s) :=
  .unfaulted ⟨rfl, rfl, rfl⟩ ⟨rfl, rfl, rfl⟩

theorem CommandEnding.deliverSum (i : Instr) (d : Operand) (sum : PointSum) (s : State) :
    CommandEnding i s (deliverSum i d sum s) := by
  cases sum with
  | point p => exact .complete_writePoint i d p s
  | unreachable => exact .faulted (.inr rfl)

/-- The operand check adds no other ending: it ends in `ILLEGAL_CMD` or leaves the command its own (R90). -/
theorem CommandEnding.whenLegal {i : Instr} {s t : State} (h : CommandEnding i s t) :
    CommandEnding i s (whenLegal i s t) := by
  cases hi : i.wellFormed with
  | true => rwa [whenLegal_of_wellFormed hi]
  | false =>
    rw [whenLegal_of_illFormed hi]
    exact .faulted (.inl rfl)

theorem commandEnding_of_exec {i : Instr} {s t : State} (h : exec i s = .next t) : CommandEnding i s t := by
  cases i with
  | nop | fcmp =>
    cases h
    exact .unfaulted ⟨rfl, rfl, rfl⟩ ⟨rfl, rfl, rfl⟩
  | fmov | fadd | fmul | fpow | ftr | fhtr =>
    cases h
    exact .complete_writeField ..
  | fldc =>
    cases h
    split
    · exact .complete_writeField ..
    · exact .faulted (.inl rfl)
  | finv =>
    cases h
    split
    · exact .degenerate ..
    · exact .complete_writeField ..
  | qsolve =>
    cases h
    split
    · exact .complete_writeField ..
    · exact .degenerate ..
  | pfromx =>
    cases h
    apply CommandEnding.whenLegal
    split
    · exact .complete_writePoint ..
    · exact .degenerate ..
  | padd | smul =>
    cases h
    exact (CommandEnding.deliverSum ..).whenLegal
  | pdbl | pneg =>
    cases h
    exact (CommandEnding.complete_writePoint ..).whenLegal
  | pcmp =>
    cases h
    apply CommandEnding.whenLegal
    exact .unfaulted ⟨rfl, rfl, rfl⟩ ⟨rfl, rfl, rfl⟩

/-- Settles O9: a word with `FAULT = 0` faults at the decode check or in its command, and either way its fault entry
is all that it does. -/
theorem faultEntryChangesNothingElse : Obligations.FaultEntryChangesNothingElse := by
  intro s t w hs h ht
  obtain ⟨hf, -⟩ | ⟨-, r, -, hissue⟩ | ⟨-, i, hdec, hissue⟩ := issueCommand_cases w s
  · cases hs.symm.trans hf
  · cases hissue.symm.trans h
    exact ⟨faultedFrom_raiseFault .illegalCmd w s, .inl rfl⟩
  · cases commandEnding_of_exec (hissue.symm.trans h) with
    | unfaulted hrecord =>
      obtain ⟨hkept, -, -⟩ := hrecord
      cases ht.symm.trans (hkept.trans hs)
    | faulted hcause =>
      rw [encode_of_decode hdec]
      exact ⟨faultedFrom_raiseFault _ w s, hcause⟩

/-! ### The events to come -/

theorem pending_of_exec {i : Instr} {s t : State} (h : exec i s = .next t) : t.pending = s.pending := by
  cases commandEnding_of_exec h with
  | unfaulted _ hhost =>
    obtain ⟨hpending, -, -⟩ := hhost
    exact hpending
  | faulted => rfl

theorem pending_of_issueCommand {w : Word} {s t : State} (h : issueCommand w s = .next t) :
    t.pending = s.pending := by
  obtain ⟨-, hissue⟩ | ⟨-, r, -, hissue⟩ | ⟨-, i, -, hissue⟩ := issueCommand_cases w s
  · cases hissue.symm.trans h
    rfl
  · cases hissue.symm.trans h
    rfl
  · exact pending_of_exec (hissue.symm.trans h)

theorem pending_of_writeTarget {p : PortTarget} {v : Word} {s t : State} (h : writeTarget p v s = .next t) :
    t.pending = s.pending := by
  cases p with
  | cmd => exact pending_of_issueCommand h
  | ctrl =>
    cases h
    split <;> rfl
  | fieldWord | status | id | faultCmd | reserved => cases h; rfl

/-- An access leaves the events to come if, where it is performed, what it performs does. -/
theorem pending_of_hostAccess {addr bits : Nat} {s t : State} {perform : PortTarget → Outcome}
    (hperform : perform (portTarget addr) = .next t → t.pending = s.pending)
    (h : hostAccess addr bits s perform = .next t) : t.pending = s.pending := by
  obtain ⟨-, hstop⟩ | ⟨-, -, hbus⟩ | ⟨-, -, -, hdone⟩ := hostAccess_cases addr bits s perform
  · cases hstop.symm.trans h
  · cases hbus.symm.trans h
    rfl
  · exact hperform (hdone.symm.trans h)

/-- No event, whatever it is, touches the events after it (R65). -/
theorem pending_of_handleEvent {e : HostEvent} {s t : State} (h : handleEvent e s = .next t) :
    t.pending = s.pending := by
  cases e with
  | hardReset => cases h; rfl
  | portRead addr bits =>
    rw [handleEvent] at h
    refine pending_of_hostAccess (fun hread => ?_) h
    cases hread
    rfl
  | portWrite addr bits v =>
    rw [handleEvent] at h
    exact pending_of_hostAccess (fun hwrite => pending_of_writeTarget (s := respond .ack s) hwrite) h

/-- Settles O6: `step` hands the next event to `handleEvent`, which leaves the list it is given. -/
theorem stepTakesOneEvent : Obligations.StepTakesOneEvent := by
  intro s
  refine ⟨step_of_idle, fun e rest hs => ⟨step_of_event hs, fun t ht => ?_⟩⟩
  exact pending_of_handleEvent ((step_of_event hs).symm.trans ht)

/-! ### The faulted state -/

/-- `STATUS` stands at 0x204 and nowhere else (R56). -/
theorem portTarget_eq_status {addr : Nat} (h : portTarget addr = .status) : addr = 0x204 := by
  unfold portTarget at h
  split_ifs at h
  assumption

/-- `FAULT` itself shows in the word at `STATUS` and in no other (R28, R238). -/
theorem readTarget_setFault {p : PortTarget} (hp : p ≠ .status) (f : Bool) (s : State) :
    readTarget p { s with fault := f } = readTarget p s := by
  cases p with
  | status => exact absurd rfl hp
  | fieldWord | cmd | ctrl | id | faultCmd | reserved => rfl

/-- Settles O11: the port treats a faulted block as any other, except that it discards command words. -/
theorem faultedBlockUntilReset : Obligations.FaultedBlockUntilReset := by
  intro s hs
  refine ⟨fun w => ?cmdWrite, fun addr hlt haligned => ?read, fun i k v => ?registerWrite, fun v hv => ?softReset,
    fun e t he h => ?otherEvent⟩
  case cmdWrite => exact (handleEvent_cmdWrite w s).trans (issueCommand_of_faulted (s := respond .ack s) hs w)
  case read =>
    refine ⟨_, _, portReads_of_valid hlt haligned s, rfl, ⟨rfl, rfl, rfl, rfl, rfl, rfl, rfl, rfl⟩, _,
      portReads_of_valid hlt haligned _, fun hstatus => ?_⟩
    have hword := readTarget_setFault (mt portTarget_eq_status hstatus) false s
    exact congrArg (fun w => some (BusResponse.data w)) hword
  case registerWrite =>
    exact ⟨_, handleEvent_fieldWordWrite i k v s, readField_writeField _ i _, rfl, rfl, rfl⟩
  case softReset =>
    refine ⟨resetBlock (respond .ack s), ?_, rfl, statusWord_resetBlock _⟩
    rw [handleEvent_ctrlWrite, if_pos hv]
  case otherEvent =>
    obtain ⟨hfault, hcause, hword⟩ := sameFault_of_handleEvent hs he h
    exact ⟨hfault.trans hs, hcause, hword⟩

end Sys2Proof.Proofs

/-! The encoder and the decoder against each other (R80 to R90), and the decoder against the opcode table: the masks
of the table by format (R82). -/

namespace Sys2Proof.Proofs

open Sys2Proof.Machine Sys2Proof.Safety

/-! ### Round trips -/

/-- Every command is its opcode's at some fields, with the fields its format does not use at zero (R82). -/
theorem exists_command (i : Instr) : ∃ (o : Opcode) (d a b : Operand),
    i = o.command d a b ∧ unusedNonzero o.format d a b = false := by
  cases i with
  | nop => exact ⟨.NOP, 0, 0, 0, rfl, rfl⟩
  | fmov d a => exact ⟨.FMOV, d, a, 0, rfl, rfl⟩
  | fldc d c => exact ⟨.FLDC, d, c, 0, rfl, rfl⟩
  | fadd d a b => exact ⟨.FADD, d, a, b, rfl, rfl⟩
  | fmul d a b => exact ⟨.FMUL, d, a, b, rfl, rfl⟩
  | fpow d a b => exact ⟨.FPOW, d, a, b, rfl, rfl⟩
  | finv d a => exact ⟨.FINV, d, a, 0, rfl, rfl⟩
  | ftr d a => exact ⟨.FTR, d, a, 0, rfl, rfl⟩
  | fhtr d a => exact ⟨.FHTR, d, a, 0, rfl, rfl⟩
  | fcmp a b => exact ⟨.FCMP, 0, a, b, rfl, rfl⟩
  | qsolve d a b => exact ⟨.QSOLVE, d, a, b, rfl, rfl⟩
  | pfromx d a => exact ⟨.PFROMX, d, a, 0, rfl, rfl⟩
  | padd d a b => exact ⟨.PADD, d, a, b, rfl, rfl⟩
  | pdbl d a => exact ⟨.PDBL, d, a, 0, rfl, rfl⟩
  | pneg d a => exact ⟨.PNEG, d, a, 0, rfl, rfl⟩
  | pcmp a b => exact ⟨.PCMP, 0, a, b, rfl, rfl⟩
  | smul d a b => exact ⟨.SMUL, d, a, b, rfl, rfl⟩

/-- The operand values a command admits are those that pass checks 4 and 5 of R90. -/
theorem wellFormed_command_iff (o : Opcode) (d a b : Operand) :
    (o.command d a b).wellFormed = true ↔
      oddPoint o.format d a b = false ∧ (o = .FLDC → a.isConstIndex = true) := by
  cases o <;> simp [Opcode.command, Instr.wellFormed, Opcode.format, oddPoint, and_assoc]

/-- A word packed from fields that pass the checks decodes to the command of those fields. -/
theorem decode_packWord {o : Opcode} {d a b : Operand} (hu : unusedNonzero o.format d a b = false)
    (hp : oddPoint o.format d a b = false) (hc : o = .FLDC → a.isConstIndex = true) :
    decode (packWord o.code d a b) = .ok (o.command d a b) := by
  have h := decode_of_checks (w := packWord o.code d a b) (o := o)
  rw [opField_packWord, zField_packWord, dField_packWord, aField_packWord, bField_packWord] at h
  exact h (opcodeOf_code o) rfl hu hp hc

/-- Settles O1: a well-formed command's fields pass the checks of R90. -/
theorem decodeOfEncode : Obligations.DecodeOfEncode := by
  intro i hi
  obtain ⟨o, d, a, b, rfl, hu⟩ := exists_command i
  obtain ⟨hp, hc⟩ := (wellFormed_command_iff o d a b).mp hi
  rw [encode_command hu, decode_packWord hu hp hc]

theorem wellFormed_of_decode {w : Word} {i : Instr} (h : decode w = .ok i) : i.wellFormed = true := by
  obtain ⟨o, -, -, -, hp, hc, rfl⟩ := decode_eq_ok h
  exact (wellFormed_command_iff o _ _ _).mpr ⟨hp, hc⟩

/-- Settles O2. -/
theorem encodeOfDecode : Obligations.EncodeOfDecode :=
  fun _ _ h => ⟨encode_of_decode h, wellFormed_of_decode h⟩

/-- Settles O4, by running the decoder on each word. -/
theorem sampleWordsDecode : Obligations.SampleWordsDecode := by
  unfold Obligations.SampleWordsDecode
  decide

/-! ### The opcode table -/

/-- What a format ties in the fields `d`, `a`, `b`: all four bits of an unused field, bit 0 of a point register. -/
def operandMasks : Format → Operand × Operand × Operand
  | .Z => (15, 15, 15)
  | .FDA | .FDC => (0, 0, 15)
  | .FDAB => (0, 0, 0)
  | .FAB => (15, 0, 0)
  | .PDF => (1, 0, 15)
  | .PDAB => (1, 1, 1)
  | .PDA => (1, 1, 15)
  | .PAB => (15, 1, 1)
  | .PDAS => (1, 1, 0)

/-- The bits a word of this format is tied in: `op` and `z` whole, and those of `operandMasks`. -/
def formatMask (f : Format) : Word :=
  packWord 0xFF (operandMasks f).1 (operandMasks f).2.1 (operandMasks f).2.2 ||| 0xFFF

theorem opField_formatMask (f : Format) : opField (formatMask f) = BitVec.allOnes 8 := by cases f <;> decide
theorem dField_formatMask (f : Format) : dField (formatMask f) = (operandMasks f).1 := by cases f <;> decide
theorem aField_formatMask (f : Format) : aField (formatMask f) = (operandMasks f).2.1 := by cases f <;> decide
theorem bField_formatMask (f : Format) : bField (formatMask f) = (operandMasks f).2.2 := by cases f <;> decide
theorem zField_formatMask (f : Format) : zField (formatMask f) = BitVec.allOnes 12 := by cases f <;> decide

/-- The row of the table is that of the opcode `o`: the mask of its format, and no bit set but its `op`. -/
def isRowOf (o : Opcode) (row : TableRow) : Prop :=
  row.mask = formatMask o.format ∧ row.bits = packWord o.code 0 0 0

theorem exists_isRowOf {row : TableRow} (h : row ∈ opcodeTable) : ∃ o, isRowOf o row := by
  have hall : ∀ row ∈ opcodeTable, ∃ o ∈ opcodeOf (opField row.bits),
      row.mask = formatMask o.format ∧ row.bits = packWord o.code 0 0 0 := by decide
  obtain ⟨o, -, ho⟩ := hall row h
  exact ⟨o, ho⟩

theorem exists_row (o : Opcode) : ∃ row ∈ opcodeTable, isRowOf o row := by
  unfold isRowOf
  cases o <;> decide

theorem eq_packWord_iff (w : Word) (op : BitVec 8) (d a b : Operand) :
    w = packWord op d a b ↔ opField w = op ∧ dField w = d ∧ aField w = a ∧ bField w = b ∧ zField w = 0 := by
  constructor
  · rintro rfl
    exact ⟨opField_packWord .., dField_packWord .., aField_packWord .., bField_packWord .., zField_packWord ..⟩
  · rintro ⟨rfl, rfl, rfl, rfl, hz⟩
    exact (packWord_fields hz).symm

theorem opField_and (w m : Word) : opField (w &&& m) = opField w &&& opField m := BitVec.extractLsb'_and

theorem zField_and (w m : Word) : zField (w &&& m) = zField w &&& zField m := BitVec.extractLsb'_and

theorem operandField_and (lo : Nat) (w m : Word) :
    operandField lo (w &&& m) = operandField lo w &&& operandField lo m := by
  rw [operandField, BitVec.extractLsb'_and]
  exact Fin.ext (Nat.mod_eq_of_lt (BitVec.isLt _)).symm

theorem dField_and (w m : Word) : dField (w &&& m) = dField w &&& dField m := operandField_and 20 w m
theorem aField_and (w m : Word) : aField (w &&& m) = aField w &&& aField m := operandField_and 16 w m
theorem bField_and (w m : Word) : bField (w &&& m) = bField w &&& bField m := operandField_and 12 w m

/-! What a mask's four bits at a field say of the field: nothing, that it is even, or that it is zero. -/

theorem and_zero_eq_zero (x : Operand) : x &&& 0 = 0 := by revert x; decide
theorem and_one_eq_zero_iff (x : Operand) : x &&& 1 = 0 ↔ x.isEven = true := by revert x; decide
theorem and_fifteen_eq_zero_iff (x : Operand) : x &&& 15 = 0 ↔ x = 0 := by revert x; decide

/-- The fields `d`, `a`, `b` meet a format's masks if they pass checks 3 and 4 of R90. -/
theorem and_operandMasks_eq_zero_iff (f : Format) (d a b : Operand) :
    (d &&& (operandMasks f).1 = 0 ∧ a &&& (operandMasks f).2.1 = 0 ∧ b &&& (operandMasks f).2.2 = 0) ↔
      unusedNonzero f d a b = false ∧ oddPoint f d a b = false := by
  cases f <;>
    simp [operandMasks, unusedNonzero, oddPoint, and_zero_eq_zero, and_one_eq_zero_iff, and_fifteen_eq_zero_iff,
      and_assoc, and_comm, and_left_comm]

/-- A word meets a format's mask, with the opcode's bits, if it passes checks 2 to 4 of R90 for that format. -/
theorem and_formatMask_eq_iff (f : Format) (w : Word) (op : BitVec 8) :
    w &&& formatMask f = packWord op 0 0 0 ↔ opField w = op ∧ zField w = 0 ∧
      unusedNonzero f (dField w) (aField w) (bField w) = false ∧
      oddPoint f (dField w) (aField w) (bField w) = false := by
  rw [eq_packWord_iff, opField_and, dField_and, aField_and, bField_and, zField_and, opField_formatMask,
    dField_formatMask, aField_formatMask, bField_formatMask, zField_formatMask, BitVec.and_allOnes,
    BitVec.and_allOnes, ← and_operandMasks_eq_zero_iff]
  tauto

theorem exists_row_iff (w : Word) :
    (∃ row ∈ opcodeTable, w &&& row.mask = row.bits) ↔ ∃ o : Opcode, opField w = o.code ∧ zField w = 0 ∧
      unusedNonzero o.format (dField w) (aField w) (bField w) = false ∧
      oddPoint o.format (dField w) (aField w) (bField w) = false := by
  constructor
  · rintro ⟨row, hrow, hw⟩
    obtain ⟨o, hmask, hbits⟩ := exists_isRowOf hrow
    rw [hmask, hbits, and_formatMask_eq_iff] at hw
    exact ⟨o, hw⟩
  · rintro ⟨o, ho⟩
    obtain ⟨row, hrow, hmask, hbits⟩ := exists_row o
    refine ⟨row, hrow, ?_⟩
    rwa [hmask, hbits, and_formatMask_eq_iff]

/-- The constraint of the table's row `FLDC` is check 5 of R90. -/
theorem fldc_constraint_iff {w : Word} {o : Opcode} (ho : opField w = o.code) :
    (w.toNat / 2 ^ 24 = 0x02 → w.toNat / 2 ^ 16 % 16 ≤ 6) ↔ (o = .FLDC → (aField w).isConstIndex = true) := by
  have h := reservedConstant_iff o (aField w)
  rw [← ho, opField_toNat, aField, operandField_val] at h
  rw [← not_iff_not, Classical.not_imp, Classical.not_imp, not_le, aField, Bool.not_eq_true]
  exact h.symm

/-- Settles O3: the rows' masks are checks 1 to 4 of R90, the constraint of `FLDC` is check 5. -/
theorem decoderAcceptsTheOpcodeTable : Obligations.DecoderAcceptsTheOpcodeTable := by
  intro w
  rw [inTable, exists_row_iff]
  constructor
  · rintro ⟨i, h⟩
    obtain ⟨o, ho, hz, hu, hp, hc, -⟩ := decode_eq_ok h
    have hop := (code_of_opcodeOf ho).symm
    exact ⟨⟨o, hop, hz, hu, hp⟩, (fldc_constraint_iff hop).mpr hc⟩
  · rintro ⟨⟨o, hop, hz, hu, hp⟩, hc⟩
    exact ⟨_, decode_of_checks (hop ▸ opcodeOf_code o) hz hu hp ((fldc_constraint_iff hop).mp hc)⟩

end Sys2Proof.Proofs

/-! What a well-formed command leaves alone and when it faults (R15, R164, R191, R231), and the block's invariant along
every step (R28, R30, R120, R232). -/

namespace Sys2Proof.Proofs

open Sys2Proof.Machine Sys2Proof.Safety

/-! ### Frames of the ways a command completes -/

theorem frame_complete (s : State) : frame [] s (complete s) :=
  ⟨⟨rfl, rfl⟩, ⟨rfl, rfl, rfl⟩, ⟨rfl, rfl, rfl⟩, fun _ _ => rfl⟩

theorem frame_degenerate (r : ResultCode) (s : State) : frame [] s (degenerate r s) :=
  ⟨⟨rfl, rfl⟩, ⟨rfl, rfl, rfl⟩, ⟨rfl, rfl, rfl⟩, fun _ _ => rfl⟩

theorem frame_complete_writeField (d : Operand) (v : FieldElement) (s : State) :
    frame [d] s (complete (writeField d v s)) := by
  refine ⟨⟨rfl, rfl⟩, ⟨rfl, rfl, rfl⟩, ⟨rfl, rfl, rfl⟩, fun r hr => ?_⟩
  exact readField_writeField_of_ne s (List.ne_of_not_mem_cons hr) v

theorem frame_complete_writePoint (d : Operand) (p : Point) (s : State) :
    frame [d, pairY d] s (complete (writePoint d p s)) := by
  refine ⟨⟨rfl, rfl⟩, ⟨rfl, rfl, rfl⟩, ⟨rfl, rfl, rfl⟩, fun r hr => ?_⟩
  simp only [List.mem_cons, List.not_mem_nil, or_false, not_or] at hr
  exact readField_writePoint_of_ne s hr.1 hr.2 p

theorem frame_mono {u v : List Operand} {s t : State} (huv : u ⊆ v) (h : frame u s t) : frame v s t := by
  obtain ⟨hflags, hfault, hhost, hfields⟩ := h
  exact ⟨hflags, hfault, hhost, fun r hr => hfields r fun hu => hr (huv hu)⟩

/-! ### How a well-formed command ends -/

/-- The command is an addition or a multiplication of points that is unreachable in this state (R161, R190). -/
def meetsUnreachable (i : Instr) (s : State) : Prop :=
  match i with
  | .padd _ a b => pointAdd (readPoint a s) (readPoint b s) = .unreachable
  | .smul _ a b => scalarMul (readPoint a s) (readScalar b s) = .unreachable
  | _ => False

/-- A well-formed command completes, with nothing written but its destinations, the flags and `RESULT`; or it meets an
unreachable sum, and faults `GROUP_LAW` by its own word (R164, R191, R232). -/
inductive LegalEnding (i : Instr) (s : State) : State → Prop
  | completed {t : State} (hreached : ¬ meetsUnreachable i s) (hrecord : sameFault s t) (hhost : sameHost s t)
      (hfields : sameFieldsBut (destinations i) s t) : LegalEnding i s t
  | groupLaw (hunreached : meetsUnreachable i s) : LegalEnding i s (raiseFault .groupLaw (encode i) s)

theorem constant_of_isConstIndex {c : Operand} (h : c.isConstIndex = true) : constant c ≠ none := by
  revert c
  decide

theorem LegalEnding.of_frame {i : Instr} {s t : State} (hreached : ¬ meetsUnreachable i s)
    (h : frame (destinations i) s t) : LegalEnding i s t := by
  obtain ⟨-, hrecord, hhost, hfields⟩ := h
  exact .completed hreached hrecord hhost hfields

theorem LegalEnding.deliverSum {i : Instr} {d : Operand} {sum : PointSum} {s : State}
    (hsum : meetsUnreachable i s ↔ sum = .unreachable) (hd : destinations i = [d, pairY d]) :
    LegalEnding i s (deliverSum i d sum s) := by
  cases sum with
  | point p => exact .of_frame (by simp [hsum]) (hd ▸ frame_complete_writePoint d p s)
  | unreachable => exact .groupLaw (hsum.mpr rfl)

theorem legalEnding_of_exec {i : Instr} {s t : State} (hi : i.wellFormed = true) (h : exec i s = .next t) :
    LegalEnding i s t := by
  cases i with
  | nop =>
    cases h
    exact .of_frame id (frame_complete s)
  | fcmp =>
    cases h
    exact .completed id ⟨rfl, rfl, rfl⟩ ⟨rfl, rfl, rfl⟩ fun _ _ => rfl
  | fmov | fadd | fmul | fpow | ftr | fhtr =>
    cases h
    exact .of_frame id (frame_complete_writeField ..)
  | fldc d c =>
    cases h
    cases hc : constant c with
    | some v => exact .of_frame id (frame_complete_writeField ..)
    | none => exact absurd hc (constant_of_isConstIndex hi)
  | finv =>
    cases h
    split
    · exact .of_frame id (frame_mono (List.nil_subset _) (frame_degenerate ..))
    · exact .of_frame id (frame_complete_writeField ..)
  | qsolve =>
    cases h
    split
    · exact .of_frame id (frame_complete_writeField ..)
    · exact .of_frame id (frame_mono (List.nil_subset _) (frame_degenerate ..))
  | pfromx =>
    cases h
    rw [whenLegal_of_wellFormed hi]
    split
    · exact .of_frame id (frame_complete_writePoint ..)
    · exact .of_frame id (frame_mono (List.nil_subset _) (frame_degenerate ..))
  | padd | smul =>
    cases h
    rw [whenLegal_of_wellFormed hi]
    exact .deliverSum Iff.rfl rfl
  | pdbl | pneg =>
    cases h
    rw [whenLegal_of_wellFormed hi]
    exact .of_frame id (frame_complete_writePoint ..)
  | pcmp =>
    cases h
    rw [whenLegal_of_wellFormed hi]
    exact .completed id ⟨rfl, rfl, rfl⟩ ⟨rfl, rfl, rfl⟩ fun _ _ => rfl

/-- Settles O29, from the two endings of a well-formed command. -/
theorem commandsLeaveTheRest : Obligations.CommandsLeaveTheRest := by
  intro i s t hi h
  cases legalEnding_of_exec hi h with
  | completed _ hrecord hhost hfields => exact ⟨hhost, hfields, .inl hrecord⟩
  | groupLaw => exact ⟨⟨rfl, rfl, rfl⟩, fun _ _ => rfl, .inr (faultedFrom_raiseFault ..)⟩

/-- Settles O31. -/
theorem illFormedOperandsFault : Obligations.IllFormedOperandsFault :=
  fun i s hi => ⟨_, exec_of_illFormed hi s, faultedFrom_raiseFault .illegalCmd (encode i) s⟩

/-! ### When a written word faults -/

/-- No command stops the machine. -/
theorem exists_exec_eq_next (i : Instr) (s : State) : ∃ t, exec i s = .next t := by
  cases i <;> exact ⟨_, rfl⟩

theorem unreachableCommand_iff {w : Word} {i : Instr} (h : decode w = .ok i) (s : State) :
    unreachableCommand w s ↔ meetsUnreachable i s := by
  rw [unreachableCommand, h]
  cases i <;> simp [meetsUnreachable]

/-- Settles O10: an illegal word faults at the decode check, a legal one only where its sum is unreachable. -/
theorem faultCausesAreExact : Obligations.FaultCausesAreExact := by
  intro s w hs
  have hlegal := exists_decode_ok_iff w
  cases hdec : decode w with
  | error r =>
    have hill : illegalWord w := by
      by_contra hleg
      obtain ⟨i, hi⟩ := hlegal.mpr hleg
      cases hdec.symm.trans hi
    exact ⟨_, issueCommand_of_illegal hs hdec, iff_of_true ⟨rfl, rfl⟩ hill, iff_of_false nofun fun h => h.1 hill,
      fun _ => .inl rfl⟩
  | ok i =>
    have hleg : ¬ illegalWord w := hlegal.mp ⟨i, hdec⟩
    obtain ⟨t, ht⟩ := exists_exec_eq_next i s
    refine ⟨t, (issueCommand_of_legal hs hdec).trans ht, ?_⟩
    rw [unreachableCommand_iff hdec]
    cases legalEnding_of_exec (wellFormed_of_decode hdec) ht with
    | completed hreached hrecord =>
      have hfault : t.fault ≠ true := by simp [hrecord.1, hs]
      exact ⟨iff_of_false (fun h => hfault h.1) hleg, iff_of_false (fun h => hfault h.1) fun h => hreached h.2,
        fun h => absurd h hfault⟩
    | groupLaw hunreached =>
      exact ⟨iff_of_false nofun hleg, iff_of_true ⟨rfl, rfl⟩ ⟨hleg, hunreached⟩, fun _ => .inr rfl⟩

/-! ### The invariant -/

/-- The invariant is about the fault record and the flags alone. -/
theorem faultRecord_congr {s t : State} (h : faultRecord s) (hrecord : sameFault s t) : faultRecord t := by
  obtain ⟨hfault, hcause, hword⟩ := hrecord
  rwa [faultRecord, hfault, hcause, hword]

theorem flagsExclusive_congr {s t : State} (h : flagsExclusive s) (hflags : sameFlags s t) : flagsExclusive t := by
  obtain ⟨heq, hlt⟩ := hflags
  rwa [flagsExclusive, heq, hlt]

theorem inv_of_same {s t : State} (h : Safety.Inv s) (hrecord : sameFault s t) (hflags : sameFlags s t) :
    Safety.Inv t :=
  ⟨faultRecord_congr h.1 hrecord, flagsExclusive_congr h.2 hflags⟩

theorem inv_resetBlock (s : State) : Safety.Inv (resetBlock s) :=
  ⟨⟨fun _ => ⟨rfl, rfl⟩, nofun⟩, nofun⟩

/-- Settles O26. -/
theorem invariantAtReset : Obligations.InvariantAtReset :=
  ⟨⟨fun _ => ⟨rfl, rfl⟩, nofun⟩, nofun⟩

theorem feLt_self (a : FieldElement) : feLt a a = false := by simp [feLt]

/-- A compare never sets both flags: equal values are not ordered, and `PCMP` clears `LT` (R120, R167). -/
theorem flagsExclusive_of_exec {i : Instr} {s t : State} (hs : flagsExclusive s) (h : exec i s = .next t) :
    flagsExclusive t := by
  cases hi : isCompare i with
  | false => exact flagsExclusive_congr hs (sameFlags_of_exec hi h)
  | true =>
    cases i with
    | fcmp a b =>
      cases h
      rintro ⟨heq, hlt⟩
      simp only [complete_eq, compareFields_eq, beq_iff_eq, complete_lt, compareFields_lt] at heq hlt
      rw [heq, feLt_self] at hlt
      cases hlt
    | pcmp a b =>
      cases h
      cases hw : (Instr.pcmp a b).wellFormed with
      | true =>
        rw [whenLegal_of_wellFormed hw]
        rintro ⟨-, hlt⟩
        cases hlt
      | false =>
        rw [whenLegal_of_illFormed hw]
        exact hs
    | _ => cases hi

/-- A sum that is unreachable is one of `PADD` or `SMUL`. -/
theorem exists_eq_of_meetsUnreachable {i : Instr} {s : State} (h : meetsUnreachable i s) :
    ∃ d a b, i = .padd d a b ∨ i = .smul d a b := by
  cases i with
  | padd d a b => exact ⟨d, a, b, .inl rfl⟩
  | smul d a b => exact ⟨d, a, b, .inr rfl⟩
  | _ => cases h

/-- A fault entry of the `CMD` write records what the invariant says of it (R231, R233, R234). -/
theorem inv_of_issueCommand {w : Word} {s t : State} (hs : Safety.Inv s) (h : issueCommand w s = .next t) :
    Safety.Inv t := by
  obtain ⟨hrecord, hflags⟩ := hs
  obtain ⟨-, hissue⟩ | ⟨-, r, hdec, hissue⟩ | ⟨-, i, hdec, hissue⟩ := issueCommand_cases w s
  · cases hissue.symm.trans h
    exact ⟨hrecord, hflags⟩
  · cases hissue.symm.trans h
    exact ⟨⟨nofun, fun _ => .inl ⟨rfl, r, hdec⟩⟩, hflags⟩
  · have hexec := hissue.symm.trans h
    refine ⟨?_, flagsExclusive_of_exec hflags hexec⟩
    cases legalEnding_of_exec (wellFormed_of_decode hdec) hexec with
    | completed _ hkept => exact faultRecord_congr hrecord hkept
    | groupLaw hunreached =>
      refine ⟨nofun, fun _ => .inr ⟨rfl, ?_⟩⟩
      rw [raiseFault_faultCmd, encode_of_decode hdec, hdec]
      obtain ⟨d, a, b, rfl | rfl⟩ := exists_eq_of_meetsUnreachable hunreached
      · exact ⟨d, a, b, .inl rfl⟩
      · exact ⟨d, a, b, .inr rfl⟩

theorem inv_of_writeTarget {p : PortTarget} {v : Word} {s t : State} (hs : Safety.Inv s)
    (h : writeTarget p v s = .next t) : Safety.Inv t := by
  cases p with
  | cmd => exact inv_of_issueCommand hs h
  | ctrl =>
    cases h
    split
    · exact inv_resetBlock s
    · exact hs
  | fieldWord => cases h; exact inv_of_same hs ⟨rfl, rfl, rfl⟩ ⟨rfl, rfl⟩
  | status | id | faultCmd | reserved => cases h; exact hs

theorem inv_respond {s : State} (hs : Safety.Inv s) (r : BusResponse) : Safety.Inv (respond r s) :=
  inv_of_same hs ⟨rfl, rfl, rfl⟩ ⟨rfl, rfl⟩

/-- An access keeps the invariant if, where it is performed, what it performs does. -/
theorem inv_of_hostAccess {addr bits : Nat} {s t : State} {perform : PortTarget → Outcome} (hs : Safety.Inv s)
    (hperform : perform (portTarget addr) = .next t → Safety.Inv t)
    (h : hostAccess addr bits s perform = .next t) : Safety.Inv t := by
  obtain ⟨-, hstop⟩ | ⟨-, -, hbus⟩ | ⟨-, -, -, hdone⟩ := hostAccess_cases addr bits s perform
  · cases hstop.symm.trans h
  · cases hbus.symm.trans h
    exact inv_respond hs _
  · exact hperform (hdone.symm.trans h)

theorem inv_of_handleEvent {e : HostEvent} {s t : State} (hs : Safety.Inv s) (h : handleEvent e s = .next t) :
    Safety.Inv t := by
  cases e with
  | hardReset => cases h; exact inv_resetBlock s
  | portRead addr bits =>
    rw [handleEvent] at h
    refine inv_of_hostAccess hs (fun hread => ?_) h
    cases hread
    exact inv_respond hs _
  | portWrite addr bits v =>
    rw [handleEvent] at h
    exact inv_of_hostAccess hs (fun hwrite => inv_of_writeTarget (inv_respond hs .ack) hwrite) h

/-- Settles O27: the idle step keeps the state, and every event keeps the invariant. -/
theorem stepKeepsTheInvariant : Obligations.StepKeepsTheInvariant := by
  intro s t hs h
  cases hp : s.pending with
  | nil =>
    cases (step_of_idle hp).symm.trans h
    exact hs
  | cons e rest =>
    have htaken : Safety.Inv (takeEvent rest s) := inv_of_same hs ⟨rfl, rfl, rfl⟩ ⟨rfl, rfl⟩
    exact inv_of_handleEvent htaken ((step_of_event hp).symm.trans h)

/-! ### Runs without a reset -/

/-- Once faulted, a block stays so over any list of events without a reset (R238). -/
theorem fault_of_runEvents {es : List HostEvent} {s t : State} (hs : s.fault = true)
    (hes : ∀ e ∈ es, isResetEvent e = false) (h : runEvents es s = .next t) : t.fault = true := by
  induction es generalizing s with
  | nil => cases h; exact hs
  | cons e es ih =>
    rw [runEvents] at h
    split at h
    · next m hm =>
      obtain ⟨hfault, -, -⟩ := sameFault_of_handleEvent hs (hes e (List.mem_cons_self ..)) hm
      exact ih (hfault.trans hs) (fun e he => hes e (List.mem_cons_of_mem _ he)) h
    · cases h
    · cases h

theorem runEvents_append {done : List HostEvent} {s m : State} (h : runEvents done s = .next m)
    (left : List HostEvent) : runEvents (done ++ left) s = runEvents left m := by
  induction done generalizing s with
  | nil => cases h; rfl
  | cons e done ih =>
    rw [runEvents] at h
    split at h
    · next u hu =>
      rw [List.cons_append, runEvents, hu]
      exact ih h
    · cases h
    · cases h

/-- Settles O28: a fault on the way would stay to the end. -/
theorem cleanRunsNeverFaulted : Obligations.CleanRunsNeverFaulted := by
  rintro _ s t hes h ht done left m rfl hm
  rw [runEvents_append hm] at h
  by_contra hf
  have htrue : t.fault = true :=
    fault_of_runEvents (by simpa using hf) (fun e he => hes e (List.mem_append_right _ he)) h
  cases ht.symm.trans htrue

end Sys2Proof.Proofs

/-! The port word by word: steps and reads (R62 to R65), `STATUS` bit by bit (R28), the resets (R260, R261), and the
words of a register (R57 to R59). -/

namespace Sys2Proof.Proofs

open Sys2Proof.Machine Sys2Proof.Safety

/-! ### Steps -/

/-- Settles O5. -/
theorem stepRunsTheDecodedCommand : Obligations.StepRunsTheDecodedCommand := by
  intro s w rest i hp hs hdec
  rw [step_of_event hp, handleEvent_cmdWrite]
  exact issueCommand_of_legal (s := respond .ack (takeEvent rest s)) hs hdec

theorem exists_writeTarget_eq_next (p : PortTarget) (v : Word) (s : State) : ∃ t, writeTarget p v s = .next t := by
  cases p with
  | cmd =>
    obtain ⟨-, hissue⟩ | ⟨-, r, -, hissue⟩ | ⟨-, i, -, hissue⟩ := issueCommand_cases v s
    · exact ⟨_, hissue⟩
    · exact ⟨_, hissue⟩
    · obtain ⟨t, ht⟩ := exists_exec_eq_next i s
      exact ⟨t, hissue.trans ht⟩
  | fieldWord | status | ctrl | id | faultCmd | reserved => exact ⟨_, rfl⟩

/-- An access is answered, or is outside the window (R60), if all that is performed inside is answered. -/
theorem hostAccess_eq_next_or {addr bits : Nat} {s : State} {perform : PortTarget → Outcome}
    (hperform : ∀ p, ∃ t, perform p = .next t) :
    (∃ t, hostAccess addr bits s perform = .next t) ∨
      (0x400 ≤ addr ∧ hostAccess addr bits s perform = .fault .outsideWindow) := by
  obtain hstop | ⟨-, -, hbus⟩ | ⟨-, -, -, hdone⟩ := hostAccess_cases addr bits s perform
  · exact .inr hstop
  · exact .inl ⟨_, hbus⟩
  · obtain ⟨t, ht⟩ := hperform (portTarget addr)
    exact .inl ⟨t, hdone.trans ht⟩

/-- Settles O7: the one stop is that of `hostAccess`. -/
theorem stepStopsOnlyOutsideTheWindow : Obligations.StepStopsOnlyOutsideTheWindow := by
  intro s
  cases hp : s.pending with
  | nil => exact .inl ⟨s, step_of_idle hp⟩
  | cons e rest =>
    rw [step_of_event hp]
    cases e with
    | hardReset => exact .inl ⟨_, rfl⟩
    | portRead addr bits =>
      obtain hnext | ⟨haddr, hstop⟩ := hostAccess_eq_next_or (addr := addr) (bits := bits) (s := takeEvent rest s)
        (perform := fun p => .next (respond (.data (readTarget p (takeEvent rest s))) (takeEvent rest s)))
        fun p => ⟨_, rfl⟩
      · exact .inl hnext
      · exact .inr ⟨hstop, addr, bits, 0, rest, haddr, .inl rfl⟩
    | portWrite addr bits v =>
      obtain hnext | ⟨haddr, hstop⟩ := hostAccess_eq_next_or (addr := addr) (bits := bits) (s := takeEvent rest s)
        (perform := fun p => writeTarget p v (respond .ack (takeEvent rest s)))
        fun p => exists_writeTarget_eq_next p v _
      · exact .inl hnext
      · exact .inr ⟨hstop, addr, bits, v, rest, haddr, .inr rfl⟩

/-! ### Reads -/

theorem readTarget_respond (p : PortTarget) (r : BusResponse) (s : State) :
    readTarget p (respond r s) = readTarget p s := by
  cases p <;> rfl

theorem sameBlock_respond (r : BusResponse) (s : State) : sameBlock s (respond r s) :=
  ⟨rfl, rfl, rfl, rfl, rfl, rfl, rfl, rfl⟩

/-- Settles O17: a read that is answered sets the answer, which it does not look at. -/
theorem readsHaveNoSideEffect : Obligations.ReadsHaveNoSideEffect := by
  intro s t addr bits h
  simp only [handleEvent] at h ⊢
  obtain ⟨-, hstop⟩ | ⟨hlt, hbad, hbus⟩ | ⟨hlt, haligned, rfl, hdone⟩ := hostAccess_cases addr bits s
    fun p => .next (respond (.data (readTarget p s)) s)
  · cases hstop.symm.trans h
  · cases hbus.symm.trans h
    exact ⟨sameBlock_respond _ s, rfl, _, hostAccess_of_misaligned hlt hbad _ _, rfl⟩
  · cases hdone.symm.trans h
    refine ⟨sameBlock_respond _ s, rfl, _, hostAccess_of_valid hlt haligned _ _, ?_⟩
    rw [respond_response, respond_response, readTarget_respond]

theorem portTarget_of_reserved {addr : Nat} (h : (addr < 0x200 ∧ (addr % 0x20 = 0x18 ∨ addr % 0x20 = 0x1C)) ∨
    0x214 ≤ addr) : portTarget addr = .reserved := by
  unfold portTarget
  obtain ⟨hlt, hword⟩ | hge := h
  · rw [if_pos hlt, dif_neg (by omega)]
  · rw [if_neg (by omega), if_neg (by omega), if_neg (by omega), if_neg (by omega), if_neg (by omega),
      if_neg (by omega)]

/-- Settles O20. -/
theorem reservedAddresses : Obligations.ReservedAddresses := by
  intro s addr v haligned haddr
  have hlt : addr < 0x400 := by omega
  have htarget : portTarget addr = .reserved := portTarget_of_reserved (haddr.imp_right And.left)
  constructor
  · have hread := portReads_of_valid hlt haligned s
    rwa [htarget] at hread
  · exact handleEvent_portWrite_of_ignored hlt haligned (fun t => by rw [htarget]; rfl) s

/-! ### `STATUS` and the resets -/

/-- `STATUS` is its fields side by side, so that each is read at the sum of the widths below it (R28). -/
theorem extractLsb'_statusWord (s : State) :
    (statusWord s).extractLsb' 0 1 = BitVec.ofBool s.fault ∧ (statusWord s).extractLsb' 1 3 = 0#3 ∧
    (statusWord s).extractLsb' 4 4 = s.fcause.code ∧ (statusWord s).extractLsb' 8 4 = s.result.code ∧
    (statusWord s).extractLsb' 12 4 = 0#4 ∧ (statusWord s).extractLsb' 16 1 = BitVec.ofBool s.eq ∧
    (statusWord s).extractLsb' 17 1 = BitVec.ofBool s.lt ∧ (statusWord s).extractLsb' 18 14 = 0#14 := by
  simp (disch := decide) only [statusWord, BitVec.extractLsb'_append_eq_of_le, BitVec.extractLsb'_append_eq_of_add_le,
    Nat.reduceSub, BitVec.extractLsb'_eq_self, and_self]

/-- Settles O22. -/
theorem statusLayout : Obligations.StatusLayout := by
  intro s
  obtain ⟨hfault, hlow, hcause, hresult, hmid, heq, hlt, hhigh⟩ := extractLsb'_statusWord s
  refine ⟨hfault, hlow, hcause.trans ?_, hresult.trans ?_, hmid, heq, hlt, hhigh,
    portReads_of_valid (by decide) (by decide) s⟩
  · cases s.fcause <;> rfl
  · cases s.result <;> rfl

/-- Settles O24: the two resets differ in the bus's answer alone. -/
theorem hardAndSoftResetAgree : Obligations.HardAndSoftResetAgree := by
  intro s v hv
  refine ⟨resetBlock s, resetBlock (respond .ack s), rfl, ?_, ⟨rfl, rfl, rfl, rfl, rfl, rfl, rfl, rfl⟩,
    statusWord_resetBlock s, rfl, rfl⟩
  rw [handleEvent_ctrlWrite, if_pos hv]

/-- Settles O25. -/
theorem resetState : Obligations.ResetState := by
  refine ⟨?status, rfl, rfl, rfl, rfl, rfl, rfl, rfl, rfl⟩
  case status => decide +kernel

/-! ### The words of a register -/

theorem getLsbD_regWord (v : FieldElement) (k : Fin 6) {i : Nat} (hi : i < 32) :
    (regWord v k).getLsbD i = v.getLsbD (160 - 32 * k.val + i) := by
  have hext : 160 - 32 * k.val + i < 192 := by omega
  simp [regWord, hi, hext]

theorem getLsbD_and_seven (w : Word) {i : Nat} (hi : i < 32) :
    (w &&& 7).getLsbD i = (w.getLsbD i && decide (i < 3)) := by
  have hseven : (7 : Word) = (BitVec.allOnes 3).setWidth 32 := rfl
  rw [BitVec.getLsbD_and, hseven, BitVec.getLsbD_setWidth, BitVec.getLsbD_allOnes, decide_eq_true hi, Bool.true_and]

/-- Settles O13: bit `i` of `W_j` is bit `160 - 32j + i` of the register, in no other word; W0 has three bits. -/
theorem registerWordAfterWrite : Obligations.RegisterWordAfterWrite := by
  intro v k j w
  apply BitVec.eq_of_getLsbD_eq
  intro i hi
  have hj := j.isLt
  have hmod : (160 - 32 * j.val + i) % 32 = i := by omega
  have hdiv : 5 - (160 - 32 * j.val + i) / 32 = j.val := by omega
  rw [getLsbD_regWord _ _ hi]
  by_cases hbit : 160 - 32 * j.val + i < 163
  · rw [getLsbD_setRegWord v k w hbit, hmod, hdiv]
    by_cases hjk : j = k
    · subst hjk
      rw [if_pos rfl, if_pos rfl]
      split
      · next hzero =>
        subst hzero
        have hlow : i < 3 := by omega
        rw [getLsbD_and_seven w hi, decide_eq_true hlow, Bool.and_true]
      · rfl
    · rw [if_neg (Fin.val_ne_of_ne hjk), if_neg hjk, getLsbD_regWord _ _ hi]
  · obtain rfl : j = 0 := Fin.ext (by omega)
    have hhigh : ¬ i < 3 := by omega
    rw [BitVec.getLsbD_of_ge _ _ (not_lt.mp hbit)]
    by_cases hk : 0 = k
    · rw [if_pos hk, if_pos hk.symm, getLsbD_and_seven w hi, decide_eq_false hhigh, Bool.and_false]
    · rw [if_neg hk, getLsbD_regWord _ _ hi, BitVec.getLsbD_of_ge _ _ (not_lt.mp hbit)]

theorem portTarget_eq_fieldWord {addr : Nat} {i : Operand} {k : Fin 6} (haligned : addr % 4 = 0)
    (h : portTarget addr = .fieldWord i k) : addr = fieldWordAddr i k.val := by
  unfold portTarget at h
  split_ifs at h with hlt hword
  obtain ⟨rfl, rfl⟩ := PortTarget.fieldWord.inj h
  have hreg : addr / 0x20 < 16 := by omega
  simp only [fieldWordAddr, Fin.ofNat, Nat.mod_eq_of_lt hreg]
  omega

/-- After a write of `W_k` of `F[i]`, every other target reads what it did (R59). -/
theorem readTarget_writeField_of_ne {p : PortTarget} {i : Operand} {k : Fin 6} (hp : p ≠ .fieldWord i k) (w : Word)
    (s : State) : readTarget p (writeField i (setRegWord (readField i s) k w) s) = readTarget p s := by
  cases p with
  | fieldWord j l =>
    change regWord (readField j _) l = regWord (readField j s) l
    by_cases hj : j = i
    · subst hj
      have hl : l ≠ k := fun hl => hp (hl ▸ rfl)
      rw [readField_writeField, registerWordAfterWrite, if_neg hl]
    · rw [readField_writeField_of_ne s hj]
  | cmd | status | ctrl | id | faultCmd | reserved => rfl

/-- Settles O15. -/
theorem portWriteOfARegisterWord : Obligations.PortWriteOfARegisterWord := by
  intro s i k w
  have hi := i.isLt
  have hk := k.isLt
  have hread (v : Word) (t : State) : portReads (fieldWordAddr i k.val) v t ↔ v = regWord (readField i t) k := by
    have haddr : fieldWordAddr i k.val = 0x20 * i.val + 4 * k.val := rfl
    rw [portReads_iff (by omega) (by omega), portTarget_fieldWordAddr]
    rfl
  refine ⟨(hread _ s).mpr rfl, _, handleEvent_fieldWordWrite i k w s, (hread _ _).mpr ?same,
    fun addr hlt haligned hne => ⟨_, portReads_of_valid hlt haligned s, ?other⟩, ⟨rfl, rfl⟩, ⟨rfl, rfl, rfl⟩, rfl, rfl,
    rfl⟩
  case same => rw [readField_writeField, registerWordAfterWrite, if_pos rfl]
  case other =>
    rw [portReads_iff hlt haligned]
    have hne' := mt (portTarget_eq_fieldWord haligned) hne
    exact ((readTarget_writeField_of_ne hne' w (respond .ack s)).trans (readTarget_respond _ _ s)).symm

/-! ### Byte strings -/

theorem bytesToNat_append_singleton (bs : List (BitVec 8)) (b : BitVec 8) :
    bytesToNat (bs ++ [b]) = bytesToNat bs * 256 + b.toNat := by
  simp [bytesToNat]

theorem bytesToNat_append (bs cs : List (BitVec 8)) :
    bytesToNat (bs ++ cs) = bytesToNat bs * 256 ^ cs.length + bytesToNat cs := by
  induction cs using List.reverseRecOn with
  | nil => simp [bytesToNat]
  | append_singleton cs c ih =>
    rw [← List.append_assoc, bytesToNat_append_singleton, ih, bytesToNat_append_singleton, List.length_append,
      List.length_singleton]
    ring

/-- The last `n` bytes of a number, most significant first. -/
def bigEndian (n x : Nat) : List (BitVec 8) := (List.range n).map fun j => BitVec.ofNat 8 (x / 256 ^ (n - 1 - j))

theorem bigEndian_succ (n x : Nat) : bigEndian (n + 1) x = bigEndian n (x / 256) ++ [BitVec.ofNat 8 x] := by
  rw [bigEndian, List.range_succ, List.map_append, bigEndian]
  congr 1
  · refine List.map_congr_left fun j hj => ?_
    have hexp : n + 1 - 1 - j = n - 1 - j + 1 := by have := List.mem_range.mp hj; omega
    rw [hexp, pow_succ', Nat.div_div_eq_div_mul]
  · simp

theorem bytesToNat_bigEndian (n x : Nat) : bytesToNat (bigEndian n x) = x % 256 ^ n := by
  induction n generalizing x with
  | zero => simp [bigEndian, bytesToNat, Nat.mod_one]
  | succ n ih =>
    have hlast : x % (256 * 256 ^ n) = x % 256 + 256 * (x / 256 % 256 ^ n) := Nat.mod_mul
    rw [bigEndian_succ, bytesToNat_append_singleton, ih, BitVec.toNat_ofNat, pow_succ' 256, hlast]
    omega

/-- The 21 bytes of R52 are the big-endian string of the element's integer. -/
theorem toBytes_eq_bigEndian (v : FieldElement) : toBytes v = bigEndian 21 v.toNat := by
  refine List.map_congr_left fun j _ => BitVec.eq_of_toNat_eq ?_
  have hv : v.toNat < 2 ^ 168 := v.isLt.trans (by decide)
  have hexp : (256 : Nat) ^ (21 - 1 - j) = 2 ^ (8 * (20 - j)) := by rw [pow_mul]; rfl
  rw [BitVec.toNat_setWidth, BitVec.toNat_ushiftRight, BitVec.toNat_setWidth, Nat.mod_eq_of_lt hv, BitVec.toNat_ofNat,
    Nat.shiftRight_eq_div_pow, hexp]

/-- Settles O59: the 21 bytes hold all 163 bits, and a digest's bytes before its last 21 are a multiple of `2^168`. -/
theorem byteEncodings : Obligations.ByteEncodings := by
  refine ⟨fun v => ⟨by simp [toBytes], ?roundTrip⟩, fun digest => ?digest⟩
  case roundTrip =>
    have hv : v.toNat < 256 ^ 21 := v.isLt.trans (by decide)
    rw [toBytes_eq_bigEndian, fromBytes, if_pos (by simp [bigEndian]), bytesToNat_bigEndian, Nat.mod_eq_of_lt hv,
      maskField, BitVec.ofNat_toNat, BitVec.setWidth_eq]
  case digest =>
    have hsplit := bytesToNat_append (digest.take (digest.length - 21)) (digest.drop (digest.length - 21))
    rw [List.take_append_drop] at hsplit
    apply BitVec.eq_of_toNat_eq
    rw [fieldElementFromDigest, maskField, BitVec.toNat_ofNat, BitVec.toNat_ofNat]
    obtain hshort | hlong := le_or_gt digest.length 21
    · rw [Nat.sub_eq_zero_of_le hshort, List.drop_zero]
    · have hlen : (digest.drop (digest.length - 21)).length = 21 := by
        rw [List.length_drop]
        omega
      rw [hsplit, hlen]
      omega

theorem length_bigEndian (n x : Nat) : (bigEndian n x).length = n := by simp [bigEndian]

theorem bigEndian_add (m n x : Nat) : bigEndian (m + n) x = bigEndian m (x / 256 ^ n) ++ bigEndian n x := by
  induction n generalizing x with
  | zero => simp [bigEndian]
  | succ n ih =>
    rw [← add_assoc, bigEndian_succ, ih, bigEndian_succ, Nat.div_div_eq_div_mul, ← pow_succ', List.append_assoc]

/-- Bytes out of the middle of a big-endian string. -/
theorem take_drop_bigEndian (k l m x : Nat) :
    ((bigEndian (k + (l + m)) x).drop k).take l = bigEndian l (x / 256 ^ m) := by
  rw [bigEndian_add, List.drop_left' (length_bigEndian ..), bigEndian_add, List.take_left' (length_bigEndian ..)]

theorem toNat_regWord (v : FieldElement) (k : Fin 6) :
    (regWord v k).toNat = v.toNat / 256 ^ (20 - 4 * k.val) % 256 ^ 4 := by
  have hv : v.toNat < 2 ^ 192 := v.isLt.trans (by decide)
  have hexp : 160 - 32 * k.val = 8 * (20 - 4 * k.val) := by omega
  rw [regWord, BitVec.toNat_setWidth, BitVec.toNat_ushiftRight, BitVec.toNat_setWidth, Nat.mod_eq_of_lt hv,
    Nat.shiftRight_eq_div_pow, hexp, pow_mul]
  rfl

/-- Settles O14: the three zero bytes and the 21 of the element are its integer in 24 bytes, of which `W_k` is four. -/
theorem registerWordsAreTheBigEndianBytes : Obligations.RegisterWordsAreTheBigEndianBytes := by
  intro v k
  have hsmall : v.toNat / 256 ^ 21 = 0 := Nat.div_eq_of_lt (v.isLt.trans (by decide))
  have hpad : List.replicate 3 0 ++ toBytes v = bigEndian (3 + 21) v.toNat := by
    rw [bigEndian_add, hsmall, toBytes_eq_bigEndian]
    rfl
  have hlen : 3 + 21 = 4 * k.val + (4 + (20 - 4 * k.val)) := by omega
  rw [hpad, hlen, take_drop_bigEndian, bytesToNat_bigEndian, toNat_regWord]

end Sys2Proof.Proofs

/-! What each command writes (R101 to R191): one lemma for a register destination, one for a point destination, and the
cases of point addition (R161) and doubling (R162). -/

namespace Sys2Proof.Proofs

open Sys2Proof.Machine Sys2Proof.Safety

/-! ### Commands with a field register as destination -/

/-- All that is seen after a command that completes by writing `v` to `F[d]`. -/
theorem sees_of_writeField {i : Instr} {d : Operand} {v : FieldElement} {s : State}
    (h : exec i s = .next (complete (writeField d v s))) :
    ∃ t, exec i s = .next t ∧ readField d t = v ∧ t.result = .ok ∧ frame [d] s t :=
  ⟨_, h, readField_writeField s d v, rfl, frame_complete_writeField d v s⟩

/-- Settles O32. -/
theorem nopOnlySetsResult : Obligations.NopOnlySetsResult :=
  fun s => ⟨_, exec_nop s, rfl, frame_complete s⟩

/-- Settles O33. -/
theorem fmovCopies : Obligations.FmovCopies :=
  fun d a s => sees_of_writeField (exec_fmov s d a)

/-- Settles O34. -/
theorem fldcLoadsTheConstants : Obligations.FldcLoadsTheConstants := by
  intro d c s v hmem
  have hc : constant c = some v := by
    simp only [List.mem_cons, Prod.mk.injEq, List.not_mem_nil, or_false] at hmem
    obtain ⟨rfl, rfl⟩ | ⟨rfl, rfl⟩ | ⟨rfl, rfl⟩ | ⟨rfl, rfl⟩ | ⟨rfl, rfl⟩ | ⟨rfl, rfl⟩ | ⟨rfl, rfl⟩ := hmem <;> rfl
  refine sees_of_writeField ?_
  rw [exec_fldc, execFldc, hc]

/-- Settles O35. -/
theorem faddIsExclusiveOr : Obligations.FaddIsExclusiveOr := by
  intro d a b s
  obtain ⟨t, hexec, hvalue, hresult, hframe⟩ := sees_of_writeField (exec_fadd s d a b)
  refine ⟨t, hexec, fun n => ?_, hresult, hframe⟩
  rw [hvalue, feAdd, BitVec.getLsbD_xor]

/-- Settles O36. -/
theorem fieldFunctionsWriteTheirValue : Obligations.FieldFunctionsWriteTheirValue :=
  fun d a b s => ⟨sees_of_writeField (exec_fmul s d a b), sees_of_writeField (exec_fpow s d a b),
    sees_of_writeField (exec_ftr s d a), sees_of_writeField (exec_fhtr s d a)⟩

/-- Settles O37. -/
theorem finvInvertsOrReports : Obligations.FinvInvertsOrReports := by
  intro d a s
  by_cases h : readField a s = 0
  · simp only [if_pos h]
    refine ⟨degenerate .noInverse s, ?_, rfl, frame_degenerate .noInverse s⟩
    rw [exec_finv, execFinv, if_pos h]
  · simp only [if_neg h]
    refine sees_of_writeField ?_
    rw [exec_finv, execFinv, if_neg h]

/-- Settles O38. -/
theorem fcmpSetsTheFlags : Obligations.FcmpSetsTheFlags :=
  fun a b s => ⟨_, exec_fcmp s a b, beq_iff_eq, decide_eq_true_iff, rfl, ⟨rfl, rfl, rfl⟩, ⟨rfl, rfl, rfl⟩,
    fun _ _ => rfl⟩

/-! ### The solver's cases (R140) -/

theorem qsolve_zero_left (w : FieldElement) : qsolve 0 w = .solved (fePow w (2 ^ 162)) := if_pos rfl

theorem qsolve_zero_right {u : FieldElement} (hu : u ≠ 0) : qsolve u 0 = .solved 0 := by
  rw [qsolve, if_neg hu, if_pos rfl]

/-- The quotient of `w` by the square of `u`, by which the solver reduces to `z² + z = v` (R140). -/
def solverQuotient (u w : FieldElement) : FieldElement := feMul w (feMul (feInv u) (feInv u))

theorem qsolve_of_ne_zero {u w : FieldElement} (hu : u ≠ 0) (hw : w ≠ 0) :
    qsolve u w = if feTrace (solverQuotient u w) = 1 then .noRoot
      else .solved (feMul (feHalfTrace (solverQuotient u w)) u) := by
  rw [qsolve, if_neg hu, if_neg hw]
  rfl

theorem exec_qsolve_of_solved {a b : Operand} {s : State} {z : FieldElement}
    (h : qsolve (readField a s) (readField b s) = .solved z) (d : Operand) :
    exec (.qsolve d a b) s = .next (complete (writeField d z s)) := by
  rw [exec_qsolve, execQsolve, h]

theorem exec_qsolve_of_noRoot {a b : Operand} {s : State} (h : qsolve (readField a s) (readField b s) = .noRoot)
    (d : Operand) : exec (.qsolve d a b) s = .next (degenerate .noRoot s) := by
  rw [exec_qsolve, execQsolve, h]

/-- Settles O39. -/
theorem qsolveByCases : Obligations.QsolveByCases := by
  intro d a b s u w v
  by_cases hu : u = 0
  · simp only [if_pos hu]
    refine sees_of_writeField (exec_qsolve_of_solved ?_ d)
    change qsolve u w = _
    rw [hu, qsolve_zero_left]
  by_cases hw : w = 0
  · simp only [if_neg hu, if_pos hw]
    refine sees_of_writeField (exec_qsolve_of_solved ?_ d)
    change qsolve u w = _
    rw [hw, qsolve_zero_right hu]
  have hsolve : qsolve u w = if feTrace v = 1 then .noRoot else .solved (feMul (feHalfTrace v) u) :=
    qsolve_of_ne_zero hu hw
  by_cases hv : feTrace v = 1
  · simp only [if_neg hu, if_neg hw, if_pos hv] at hsolve ⊢
    exact ⟨_, exec_qsolve_of_noRoot hsolve d, rfl, frame_degenerate .noRoot s⟩
  · simp only [if_neg hu, if_neg hw, if_neg hv] at hsolve ⊢
    exact sees_of_writeField (exec_qsolve_of_solved hsolve d)

/-! ### Commands with a point register as destination -/

/-- All that is seen after a command that completes by writing `p` to `P[d]`. -/
theorem sees_complete_writePoint (d : Operand) (p : Point) (s : State) :
    readField d (complete (writePoint d p s)) = p.x ∧ readField (pairY d) (complete (writePoint d p s)) = p.y ∧
      (complete (writePoint d p s)).result = .ok ∧ frame [d, pairY d] s (complete (writePoint d p s)) :=
  ⟨congrArg Point.x (readPoint_writePoint s d p), congrArg Point.y (readPoint_writePoint s d p), rfl,
    frame_complete_writePoint d p s⟩

theorem exec_pfromx_of_solved {d a : Operand} {s : State} {z : FieldElement} (hd : d.isEven = true)
    (h : qsolve (readField a s) (curveRhs Config.bConst (readField a s)) = .solved z) :
    exec (.pfromx d a) s = .next (complete (writePoint d ⟨readField a s, z⟩ s)) := by
  have hi : (Instr.pfromx d a).wellFormed = true := hd
  rw [exec_pfromx, execPfromx, whenLegal_of_wellFormed hi, h]

theorem exec_pfromx_of_noRoot {d a : Operand} {s : State} (hd : d.isEven = true)
    (h : qsolve (readField a s) (curveRhs Config.bConst (readField a s)) = .noRoot) :
    exec (.pfromx d a) s = .next (degenerate .noRoot s) := by
  have hi : (Instr.pfromx d a).wellFormed = true := hd
  rw [exec_pfromx, execPfromx, whenLegal_of_wellFormed hi, h]

/-- Settles O40. -/
theorem pfromxWritesThePoint : Obligations.PfromxWritesThePoint := by
  intro d a s hd u w
  split
  · next z hz => exact ⟨_, exec_pfromx_of_solved hd hz, sees_complete_writePoint d ⟨u, z⟩ s⟩
  · next hz => exact ⟨_, exec_pfromx_of_noRoot hd hz, rfl, frame_degenerate .noRoot s⟩

/-! ### The cases of doubling and addition (R161, R162) -/

theorem eq_identity_iff (p : Point) : p = identity ↔ p.x = 0 ∧ p.y = 0 := by
  cases p
  simp [identity]

theorem pointDouble_of_x_eq_zero {p : Point} (h : p.x = 0) : pointDouble p = identity := if_pos h

/-- The third point of the tangent at `p`, reflected. -/
def tangentSum (p : Point) : Point :=
  let l := feAdd p.x (feMul p.y (feInv p.x))
  let x3 := feAdd (feAdd (feMul l l) l) 1
  ⟨x3, feAdd (feMul p.x p.x) (feMul (feAdd l 1) x3)⟩

theorem pointDouble_of_x_ne_zero {p : Point} (h : p.x ≠ 0) : pointDouble p = tangentSum p := if_neg h

/-- The third point of the chord through `p` and `q`, reflected. -/
def chordSum (p q : Point) : Point :=
  let l := feMul (feAdd p.y q.y) (feInv (feAdd p.x q.x))
  let x3 := feAdd (feAdd (feAdd (feAdd (feMul l l) l) p.x) q.x) 1
  ⟨x3, feAdd (feAdd (feMul l (feAdd p.x x3)) x3) p.y⟩

theorem feAdd_eq_right_iff (x y : FieldElement) : feAdd x y = y ↔ x = 0 := by
  rw [feAdd, ← BitVec.xor_left_inj y (x := x ^^^ y), BitVec.xor_assoc, BitVec.xor_self, BitVec.xor_zero]
  rfl

theorem point_ext {p q : Point} (hx : p.x = q.x) (hy : p.y = q.y) : p = q := by
  cases p
  cases q
  simp_all

theorem pointAdd_identity_left (q : Point) : pointAdd identity q = .point q := by
  rw [pointAdd, if_pos (by simp)]

theorem pointAdd_identity_right (p : Point) : pointAdd p identity = .point p := by
  by_cases hp : p = identity
  · rw [hp, pointAdd_identity_left]
  · rw [pointAdd, if_neg (by simpa using hp), if_pos (by simp)]

theorem pointAdd_of_ne_identity {p q : Point} (hp : p ≠ identity) (hq : q ≠ identity) :
    pointAdd p q = if p.x = q.x ∧ q.y = feAdd p.x p.y then .point identity
      else if p.x ≠ q.x then .point (chordSum p q)
      else if p.y = q.y then .point (pointDouble p) else .unreachable := by
  rw [pointAdd, if_neg (by simpa using hp), if_neg (by simpa using hq)]
  rfl

theorem pointAdd_of_neg {p q : Point} (hx : p.x = q.x) (hy : q.y = feAdd p.x p.y) :
    pointAdd p q = .point identity := by
  by_cases hp : p = identity
  · have hq : q = identity := by
      obtain ⟨hpx, hpy⟩ := (eq_identity_iff p).mp hp
      rw [hpx] at hx
      rw [hpx, hpy] at hy
      exact (eq_identity_iff q).mpr ⟨hx.symm, hy⟩
    rw [hp, hq, pointAdd_identity_left]
  by_cases hq : q = identity
  · have hp' : p = identity := by
      obtain ⟨hqx, hqy⟩ := (eq_identity_iff q).mp hq
      rw [hqx] at hx
      rw [hx, hqy] at hy
      exact (eq_identity_iff p).mpr ⟨hx, by simpa [feAdd] using hy.symm⟩
    exact absurd hp' hp
  rw [pointAdd_of_ne_identity hp hq, if_pos ⟨hx, hy⟩]

theorem pointAdd_of_x_ne {p q : Point} (hp : p ≠ identity) (hq : q ≠ identity) (hx : p.x ≠ q.x) :
    pointAdd p q = .point (chordSum p q) := by
  rw [pointAdd_of_ne_identity hp hq, if_neg fun h => hx h.1, if_pos hx]

theorem pointAdd_of_uncovered {p q : Point} (hp : p ≠ identity) (hq : q ≠ identity) (hx : p.x = q.x) (hy : q.y ≠ p.y)
    (hneg : q.y ≠ feAdd p.x p.y) : pointAdd p q = .unreachable := by
  rw [pointAdd_of_ne_identity hp hq, if_neg fun h => hneg h.2, if_neg (not_not.mpr hx), if_neg hy.symm]

/-- A pair with x-coordinate 0 is its own negative, and its double is the identity too (R162). -/
theorem pointAdd_self (p : Point) : pointAdd p p = .point (pointDouble p) := by
  by_cases hx : p.x = 0
  · rw [pointDouble_of_x_eq_zero hx, pointAdd_of_neg rfl ((feAdd_eq_right_iff ..).mpr hx).symm]
  · have hp : p ≠ identity := fun h => hx ((eq_identity_iff p).mp h).1
    have hneg : p.y ≠ feAdd p.x p.y := fun h => hx ((feAdd_eq_right_iff ..).mp h.symm)
    rw [pointAdd_of_ne_identity hp hp, if_neg fun h => hneg h.2, if_neg (not_not.mpr rfl), if_pos rfl]

/-- Settles O54: the other cases of R161 all give a pair. -/
theorem unreachableSumsExactly : Obligations.UnreachableSumsExactly := by
  refine ⟨fun p q => ⟨fun h => ?_, fun ⟨hx, hp, hq, hy, hneg⟩ => pointAdd_of_uncovered hp hq hx hy hneg⟩, pointAdd_self⟩
  have hp : p ≠ identity := by
    rintro rfl
    cases (pointAdd_identity_left q).symm.trans h
  have hq : q ≠ identity := by
    rintro rfl
    cases (pointAdd_identity_right p).symm.trans h
  rw [pointAdd_of_ne_identity hp hq] at h
  split_ifs at h with hneg hx hy
  have hx' : p.x = q.x := not_not.mp hx
  exact ⟨hx', hp, hq, fun h => hy h.symm, fun h => hneg ⟨hx', h⟩⟩

/-! ### Point commands -/

theorem exec_padd_of_even {d a b : Operand} (hd : d.isEven = true) (ha : a.isEven = true) (hb : b.isEven = true)
    (s : State) : exec (.padd d a b) s =
      .next (deliverSum (.padd d a b) d (pointAdd (readPoint a s) (readPoint b s)) s) := by
  have hi : (Instr.padd d a b).wellFormed = true := by simp [Instr.wellFormed, hd, ha, hb]
  rw [exec_padd, execPadd, whenLegal_of_wellFormed hi]

/-- Settles O41. -/
theorem paddByCases : Obligations.PaddByCases := by
  intro d a b s hd ha hb x1 y1 x2 y2 l x3 y3 l' x3' y3' writes
  have hwrites (p : Point) : writes (complete (writePoint d p s)) p.x p.y := sees_complete_writePoint d p s
  refine ⟨_, exec_padd_of_even hd ha hb s, ?_⟩
  split_ifs with hp hq hneg hx hy
  · rw [(eq_identity_iff (readPoint a s)).mpr hp, pointAdd_identity_left]
    exact hwrites (readPoint b s)
  · rw [(eq_identity_iff (readPoint b s)).mpr hq, pointAdd_identity_right]
    exact hwrites (readPoint a s)
  · rw [pointAdd_of_neg (p := readPoint a s) (q := readPoint b s) hneg.1 hneg.2]
    exact hwrites identity
  · rw [pointAdd_of_x_ne (mt (eq_identity_iff _).mp hp) (mt (eq_identity_iff _).mp hq) hx]
    exact hwrites (chordSum (readPoint a s) (readPoint b s))
  · have hx' : x1 = x2 := not_not.mp hx
    have hne : (readPoint a s).x ≠ 0 := fun h => hneg ⟨hx', hy.symm.trans ((feAdd_eq_right_iff x1 y1).mpr h).symm⟩
    rw [← point_ext (p := readPoint a s) (q := readPoint b s) hx' hy, pointAdd_self, pointDouble_of_x_ne_zero hne]
    exact hwrites (tangentSum (readPoint a s))
  · have hx' : x1 = x2 := not_not.mp hx
    rw [pointAdd_of_uncovered (mt (eq_identity_iff _).mp hp) (mt (eq_identity_iff _).mp hq) hx' (fun h => hy h.symm)
      fun h => hneg ⟨hx', h⟩]
    exact faultedFrom_raiseFault ..

theorem exec_pdbl_of_even {d a : Operand} (hd : d.isEven = true) (ha : a.isEven = true) (s : State) :
    exec (.pdbl d a) s = .next (complete (writePoint d (pointDouble (readPoint a s)) s)) := by
  have hi : (Instr.pdbl d a).wellFormed = true := by simp [Instr.wellFormed, hd, ha]
  rw [exec_pdbl, execPdbl, whenLegal_of_wellFormed hi]

/-- Settles O42. -/
theorem pdblWritesTheDouble : Obligations.PdblWritesTheDouble := by
  intro d a s hd ha x1 y1 l x3 y3
  obtain ⟨hx, hy, hresult, hframe⟩ := sees_complete_writePoint d (pointDouble (readPoint a s)) s
  refine ⟨_, exec_pdbl_of_even hd ha s, hx.trans ?_, hy.trans ?_, hresult, hframe⟩
  all_goals
    by_cases h : x1 = 0
    · rw [if_pos h, pointDouble_of_x_eq_zero h]
      rfl
    · rw [if_neg h, pointDouble_of_x_ne_zero h]
      rfl

theorem exec_pneg_of_even {d a : Operand} (hd : d.isEven = true) (ha : a.isEven = true) (s : State) :
    exec (.pneg d a) s = .next (complete (writePoint d (pointNeg (readPoint a s)) s)) := by
  have hi : (Instr.pneg d a).wellFormed = true := by simp [Instr.wellFormed, hd, ha]
  rw [exec_pneg, execPneg, whenLegal_of_wellFormed hi]

/-- Settles O43. -/
theorem pnegWritesTheNegative : Obligations.PnegWritesTheNegative :=
  fun d a s hd ha => ⟨_, exec_pneg_of_even hd ha s, sees_complete_writePoint d (pointNeg (readPoint a s)) s⟩

theorem exec_pcmp_of_even {a b : Operand} (ha : a.isEven = true) (hb : b.isEven = true) (s : State) :
    exec (.pcmp a b) s = .next (complete (comparePoints (readPoint a s) (readPoint b s) s)) := by
  have hi : (Instr.pcmp a b).wellFormed = true := by simp [Instr.wellFormed, ha, hb]
  rw [exec_pcmp, execPcmp, whenLegal_of_wellFormed hi]

/-- Settles O44. -/
theorem pcmpSetsTheFlags : Obligations.PcmpSetsTheFlags := by
  intro a b s ha hb
  refine ⟨_, exec_pcmp_of_even ha hb s, ?_, rfl, rfl, ⟨rfl, rfl, rfl⟩, ⟨rfl, rfl, rfl⟩, fun _ _ => rfl⟩
  simp [readPoint]

theorem exec_smul_of_even {d a : Operand} (hd : d.isEven = true) (ha : a.isEven = true) (b : Operand) (s : State) :
    exec (.smul d a b) s =
      .next (deliverSum (.smul d a b) d (scalarMul (readPoint a s) (readScalar b s)) s) := by
  have hi : (Instr.smul d a b).wellFormed = true := by simp [Instr.wellFormed, hd, ha]
  rw [exec_smul, execSmul, whenLegal_of_wellFormed hi]

/-- Settles O45. -/
theorem smulWritesTheMultiple : Obligations.SmulWritesTheMultiple := by
  intro d a b s hd ha
  refine ⟨_, exec_smul_of_even hd ha b s, ?_⟩
  split
  · next p hp =>
    have hp' : scalarMul (readPoint a s) (readScalar b s) = .point p := hp
    rw [hp']
    exact sees_complete_writePoint d p s
  · next hu =>
    have hu' : scalarMul (readPoint a s) (readScalar b s) = .unreachable := hu
    rw [hu']
    exact faultedFrom_raiseFault ..

end Sys2Proof.Proofs

/-! The field of residues (R10, R121): laws of the product and the power, the trace and the half-trace (R113, R116), and
the quadratic solver (R140). -/

namespace Sys2Proof.Proofs

open Sys2Proof.Machine Sys2Proof.Safety

/-! ### Product and power -/

/-- Settles O47: the residues are a commutative ring. -/
theorem productLaws : Obligations.ProductLaws := by
  refine ⟨fun a b => residue_injective ?_, fun a b c => residue_injective ?_, fun a b c => residue_injective ?_,
    fun a => residue_injective ?_, fun a => residue_injective ?_⟩
  · rw [residue_feMul, residue_feMul, mul_comm]
  · simp only [residue_feMul, mul_assoc]
  · simp only [residue_feMul, residue_feAdd, mul_add]
  · rw [residue_feMul, residue_one, mul_one]
  · rw [residue_feMul, residue_zero, mul_zero]

theorem residue_copies (a : FieldElement) (k : Nat) : residue (copies a k) = residue a ^ k := by
  induction k with
  | zero => rw [copies, residue_one, pow_zero]
  | succ k ih => rw [copies, residue_feMul, ih, pow_succ']

/-- Settles O48: the loop gives the power of the residue. -/
theorem powerIsRepeatedProduct : Obligations.PowerIsRepeatedProduct := by
  refine ⟨fun a => ?_, fun a j _ => residue_injective ?_, fun a j => residue_injective ?_,
    fun a k => residue_injective ?_, ?_, fun k hk => residue_injective ?_⟩
  · exact residue_injective (by rw [residue_fePow, pow_zero, residue_one])
  · rw [residue_fePow, residue_fePow, residue_feMul, ← pow_two, ← pow_mul]
  · rw [residue_fePow, residue_feMul, residue_fePow, residue_feMul, ← pow_two, ← pow_mul, pow_succ']
  · rw [residue_fePow, residue_copies]
  · exact residue_injective (by rw [residue_fePow, pow_zero, residue_one])
  · rw [residue_fePow, residue_zero, zero_pow (Nat.one_le_iff_ne_zero.mp hk)]

/-! ### Squaring -/

theorem residue_feSquare (a : FieldElement) : residue (feSquare a) = residue a ^ 2 := by
  rw [feSquare, residue_feMul, pow_two]

theorem feAdd_self (a : FieldElement) : feAdd a a = 0 := BitVec.xor_self

/-- The field has characteristic 2 (R10). -/
theorem two_eq_zero : (2 : FieldRing) = 0 := by
  rw [← one_add_one_eq_two, ← residue_one, ← residue_feAdd, feAdd_self, residue_zero]

theorem charP_fieldRing : CharP FieldRing 2 := by
  have hone : (1 : FieldRing) ≠ 0 := by
    rw [← residue_one, Ne, residue_eq_zero_iff]
    decide
  exact CharTwo.of_one_ne_zero_of_two_eq_zero hone two_eq_zero

/-- Squaring `n` times is additive. -/
theorem frobenius_add (x y : FieldRing) (n : Nat) : (x + y) ^ 2 ^ n = x ^ 2 ^ n + y ^ 2 ^ n := by
  have := charP_fieldRing
  exact add_pow_char_pow x y 2 n

theorem square_add (x y : FieldRing) : (x + y) ^ 2 = x ^ 2 + y ^ 2 := frobenius_add x y 1

/-- Fermat's theorem: 163 squarings bring an element back to itself. -/
theorem residue_pow_card (a : FieldElement) : residue a ^ 2 ^ 163 = residue a := by
  by_cases ha : a = 0
  · rw [ha, residue_zero, zero_pow (by norm_num)]
  · have hexp : 2 ^ 163 = 2 ^ 163 - 2 + 1 + 1 := by norm_num
    rw [hexp, pow_succ, pow_succ', residue_mul_pow_eq_one ha, one_mul]

/-! ### The sums of conjugates -/

theorem residue_frobeniusSum_zero (step : Nat) (a : FieldElement) : residue (frobeniusSum step a 0) = residue a := rfl

theorem residue_frobeniusSum_succ (step n : Nat) (a : FieldElement) :
    residue (frobeniusSum step a (n + 1)) = residue (frobeniusSum step a n) + residue a ^ 2 ^ (step * (n + 1)) := by
  rw [frobeniusSum, residue_feAdd, residue_squared]

/-- The same sum from its first term on: the form in which the loop of R116 adds it up. -/
theorem residue_frobeniusSum_succ' (step n : Nat) (a : FieldElement) :
    residue (frobeniusSum step a (n + 1)) = residue (frobeniusSum step a n) ^ 2 ^ step + residue a := by
  induction n with
  | zero => rw [residue_frobeniusSum_succ, residue_frobeniusSum_zero, zero_add, mul_one, add_comm]
  | succ n ih =>
    have hexp : 2 ^ (step * (n + 1 + 1)) = 2 ^ (step * (n + 1)) * 2 ^ step := by rw [← pow_add, mul_add_one]
    calc residue (frobeniusSum step a (n + 1 + 1))
        = residue (frobeniusSum step a n) ^ 2 ^ step + residue a + (residue a ^ 2 ^ (step * (n + 1))) ^ 2 ^ step := by
          rw [residue_frobeniusSum_succ, ih, hexp, pow_mul]
      _ = (residue (frobeniusSum step a n) + residue a ^ 2 ^ (step * (n + 1))) ^ 2 ^ step + residue a := by
          rw [frobenius_add, add_right_comm]
      _ = residue (frobeniusSum step a (n + 1)) ^ 2 ^ step + residue a := by rw [residue_frobeniusSum_succ]

theorem residue_frobeniusSum_feAdd (step n : Nat) (a b : FieldElement) :
    residue (frobeniusSum step (feAdd a b) n) =
      residue (frobeniusSum step a n) + residue (frobeniusSum step b n) := by
  induction n with
  | zero => exact residue_feAdd a b
  | succ n ih =>
    rw [residue_frobeniusSum_succ, ih, residue_feAdd, frobenius_add, residue_frobeniusSum_succ,
      residue_frobeniusSum_succ]
    ring

theorem frobeniusSum_feAdd (step n : Nat) (a b : FieldElement) :
    frobeniusSum step (feAdd a b) n = feAdd (frobeniusSum step a n) (frobeniusSum step b n) :=
  residue_injective (by rw [residue_frobeniusSum_feAdd, residue_feAdd])

/-- Every other conjugate, and each one's square, are all the conjugates. -/
theorem residue_frobeniusSum_two (a : FieldElement) (n : Nat) :
    residue (frobeniusSum 2 a n) ^ 2 + residue (frobeniusSum 2 a n) = residue (frobeniusSum 1 a (2 * n + 1)) := by
  induction n with
  | zero => rw [residue_frobeniusSum_succ', mul_zero]; rfl
  | succ n ih =>
    have hlast : residue a ^ 2 ^ (2 * (n + 1) + 1) = (residue a ^ 2 ^ (2 * (n + 1))) ^ 2 := by
      rw [← pow_mul, ← pow_succ]
    rw [residue_frobeniusSum_succ 2, square_add, residue_frobeniusSum_succ 1 (2 * (n + 1)), one_mul, hlast]
    have hnext : 2 * (n + 1) = 2 * n + 1 + 1 := by omega
    rw [hnext, residue_frobeniusSum_succ 1 (2 * n + 1), one_mul, ← hnext, ← ih]
    ring

/-! ### The trace (R113) and the half-trace (R116) -/

theorem feTraceLoop_frobeniusSum (a : FieldElement) (m n : Nat) :
    feTraceLoop n (squared a m) (frobeniusSum 1 a m) = frobeniusSum 1 a (m + n) := by
  induction n generalizing m with
  | zero => rfl
  | succ n ih =>
    have hstep : feAdd (frobeniusSum 1 a m) (feSquare (squared a m)) = frobeniusSum 1 a (m + 1) := by
      rw [frobeniusSum, one_mul, squared]
    rw [feTraceLoop_succ, hstep, ← squared, ih]
    congr 1
    omega

theorem feTrace_eq_frobeniusSum (a : FieldElement) : feTrace a = frobeniusSum 1 a 162 :=
  (feTraceLoop_frobeniusSum a 0 162).trans (by rw [zero_add])

theorem feHalfTraceLoop_frobeniusSum (a : FieldElement) (m n : Nat) :
    feHalfTraceLoop a n (frobeniusSum 2 a m) = frobeniusSum 2 a (m + n) := by
  induction n generalizing m with
  | zero => rfl
  | succ n ih =>
    have hstep : feAdd (feSquare (feSquare (frobeniusSum 2 a m))) a = frobeniusSum 2 a (m + 1) := by
      apply residue_injective
      rw [residue_feAdd, residue_feSquare, residue_feSquare, residue_frobeniusSum_succ']
      ring
    rw [feHalfTraceLoop_succ, hstep, ih]
    congr 1
    omega

theorem feHalfTrace_eq_frobeniusSum (a : FieldElement) : feHalfTrace a = frobeniusSum 2 a 81 :=
  (feHalfTraceLoop_frobeniusSum a 0 81).trans (by rw [zero_add])

/-- One conjugate more than the trace has is the element again. -/
theorem residue_frobeniusSum_163 (a : FieldElement) :
    residue (frobeniusSum 1 a 163) = residue (feTrace a) + residue a := by
  rw [residue_frobeniusSum_succ, one_mul, residue_pow_card, feTrace_eq_frobeniusSum]

theorem feTrace_feAdd (a b : FieldElement) : feTrace (feAdd a b) = feAdd (feTrace a) (feTrace b) := by
  simp only [feTrace_eq_frobeniusSum, frobeniusSum_feAdd]

/-- The square of the trace is the trace: squaring permutes the conjugates. -/
theorem residue_feTrace_square (a : FieldElement) : residue (feTrace a) ^ 2 = residue (feTrace a) := by
  have h := residue_frobeniusSum_succ' 1 162 a
  rw [residue_frobeniusSum_163, ← feTrace_eq_frobeniusSum, pow_one] at h
  exact (add_right_cancel h).symm

theorem feTrace_eq_zero_or_one (a : FieldElement) : feTrace a = 0 ∨ feTrace a = 1 := by
  have : Fact (Irreducible fieldPoly) := ⟨irreducible_fieldPoly⟩
  have hprod : residue (feTrace a) * (residue (feTrace a) - 1) = 0 := by
    linear_combination residue_feTrace_square a
  refine (mul_eq_zero.mp hprod).imp (residue_eq_zero_iff _).mp fun h => residue_injective ?_
  rw [residue_one, sub_eq_zero.mp h]

theorem residue_frobeniusSum_one (step n : Nat) : residue (frobeniusSum step 1 n) = n + 1 := by
  induction n with
  | zero => rw [residue_frobeniusSum_zero, residue_one, Nat.cast_zero, zero_add]
  | succ n ih => rw [residue_frobeniusSum_succ, ih, residue_one, one_pow, Nat.cast_succ]

theorem feTrace_zero : feTrace 0 = 0 := by
  have h := feTrace_feAdd 0 0
  rwa [feAdd_self, feAdd_self] at h

theorem feTrace_one : feTrace 1 = 1 := by
  apply residue_injective
  rw [feTrace_eq_frobeniusSum, residue_frobeniusSum_one, residue_one]
  push_cast
  linear_combination 81 * two_eq_zero

theorem feHalfTrace_feAdd (a b : FieldElement) :
    feHalfTrace (feAdd a b) = feAdd (feHalfTrace a) (feHalfTrace b) := by
  simp only [feHalfTrace_eq_frobeniusSum, frobeniusSum_feAdd]

theorem feHalfTrace_solves (a : FieldElement) :
    feAdd (feSquare (feHalfTrace a)) (feHalfTrace a) = feAdd a (feTrace a) := by
  apply residue_injective
  rw [residue_feAdd, residue_feSquare, feHalfTrace_eq_frobeniusSum, residue_frobeniusSum_two, residue_frobeniusSum_163,
    residue_feAdd, add_comm]

/-- Settles O51. -/
theorem halfTraceSolvesTheQuadratic : Obligations.HalfTraceSolvesTheQuadratic :=
  ⟨feHalfTrace_eq_frobeniusSum, feHalfTrace_feAdd, feHalfTrace_solves⟩

/-! ### The trace as two bits -/

/-- The exclusive or of bits 0 and 157, which R113 gives as the trace. -/
def traceBit (a : FieldElement) : Bool := a.getLsbD 0 ^^ a.getLsbD 157

theorem traceBit_feAdd (a b : FieldElement) : traceBit (feAdd a b) = (traceBit a ^^ traceBit b) := by
  simp only [traceBit, feAdd, BitVec.getLsbD_xor, Bool.xor_assoc, Bool.xor_left_comm]

theorem feSquare_feAdd (a b : FieldElement) : feSquare (feAdd a b) = feAdd (feSquare a) (feSquare b) :=
  residue_injective (by simp only [residue_feAdd, residue_feSquare, square_add])

theorem additiveBit_zero {f : FieldElement → Bool} (hf : ∀ a b, f (feAdd a b) = (f a ^^ f b)) : f 0 = false := by
  have h := hf 0 0
  rwa [feAdd_self, Bool.xor_self] at h

theorem toNat_lt_of_bit_clear {a : FieldElement} {n : Nat} (ha : a.toNat < 2 ^ (n + 1)) (hbit : a.getLsbD n = false) :
    a.toNat < 2 ^ n := by
  refine Nat.lt_pow_two_of_testBit _ fun i hi => ?_
  obtain rfl | hi := hi.eq_or_lt
  · exact hbit
  · exact Nat.testBit_lt_two_pow (ha.trans_le (Nat.pow_le_pow_right two_pos hi))

/-- Without its bit `n`, an element below `2^(n+1)` is below `2^n`. -/
theorem toNat_xor_twoPow_lt {a : FieldElement} {n : Nat} (hn : n < 163) (ha : a.toNat < 2 ^ (n + 1))
    (hbit : a.getLsbD n = true) : (a ^^^ BitVec.twoPow 163 n).toNat < 2 ^ n := by
  refine toNat_lt_of_bit_clear ?_ (by simp [hbit, hn])
  rw [BitVec.toNat_xor, BitVec.toNat_twoPow_of_lt hn]
  exact Nat.xor_lt_two_pow ha (Nat.pow_lt_pow_succ one_lt_two)

/-- Two additive bits of an element agree if they agree on the powers of `x`. -/
theorem additiveBit_ext {f g : FieldElement → Bool} (hf : ∀ a b, f (feAdd a b) = (f a ^^ f b))
    (hg : ∀ a b, g (feAdd a b) = (g a ^^ g b))
    (hbasis : ∀ i : Fin 163, f (BitVec.twoPow 163 i.val) = g (BitVec.twoPow 163 i.val)) (a : FieldElement) :
    f a = g a := by
  have hlow (n : Nat) (hn : n ≤ 163) (a : FieldElement) (ha : a.toNat < 2 ^ n) : f a = g a := by
    induction n generalizing a with
    | zero =>
      obtain rfl : a = 0 := BitVec.eq_of_toNat_eq (by simpa using ha)
      rw [additiveBit_zero hf, additiveBit_zero hg]
    | succ n ih =>
      cases hbit : a.getLsbD n with
      | false => exact ih (by omega) a (toNat_lt_of_bit_clear ha hbit)
      | true =>
        have hsplit : a = feAdd (a ^^^ BitVec.twoPow 163 n) (BitVec.twoPow 163 n) := by
          rw [feAdd, BitVec.xor_assoc, BitVec.xor_self, BitVec.xor_zero]
        rw [hsplit, hf, hg, ih (by omega) _ (toNat_xor_twoPow_lt (by omega) ha hbit), hbasis ⟨n, by omega⟩]
  exact hlow 163 le_rfl a a.isLt

/-- The one computation behind R113's closed form: the 163 squares of powers of `x`. -/
theorem traceBit_feSquare_twoPow :
    ∀ i : Fin 163, traceBit (feSquare (BitVec.twoPow 163 i.val)) = traceBit (BitVec.twoPow 163 i.val) := by
  decide +kernel

theorem traceBit_feSquare (a : FieldElement) : traceBit (feSquare a) = traceBit a :=
  additiveBit_ext (f := fun a => traceBit (feSquare a)) (fun a b => by rw [feSquare_feAdd, traceBit_feAdd])
    traceBit_feAdd traceBit_feSquare_twoPow a

/-- An element and its trace differ by a square and its root, on which the bit is 0. -/
theorem traceBit_eq_traceBit_feTrace (a : FieldElement) : traceBit a = traceBit (feTrace a) := by
  have h := congrArg traceBit (feHalfTrace_solves a)
  rw [traceBit_feAdd, traceBit_feAdd, traceBit_feSquare, Bool.xor_self] at h
  simpa using h.symm

theorem feTrace_eq_one_iff (a : FieldElement) : feTrace a = 1 ↔ traceBit a = true := by
  rw [traceBit_eq_traceBit_feTrace]
  obtain h | h := feTrace_eq_zero_or_one a <;> rw [h] <;> decide

/-- Settles O50. -/
theorem traceIsAdditiveBit : Obligations.TraceIsAdditiveBit :=
  ⟨feTrace_eq_frobeniusSum, feTrace_eq_zero_or_one, feTrace_feAdd, feTrace_zero, feTrace_one, feTrace_eq_one_iff⟩

/-! ### The solver (R140) -/

/-- A root of `z² + z = v` scales to one of `z² + uz = u²v`, and back. -/
theorem feAdd_square_mul (u y : FieldElement) :
    feAdd (feMul (feMul y u) (feMul y u)) (feMul u (feMul y u)) = feMul (feMul u u) (feAdd (feSquare y) y) := by
  apply residue_injective
  simp only [residue_feAdd, residue_feMul, residue_feSquare]
  ring

theorem feMul_square_solverQuotient {u : FieldElement} (hu : u ≠ 0) (w : FieldElement) :
    feMul (feMul u u) (solverQuotient u w) = w := by
  apply residue_injective
  simp only [solverQuotient, residue_feMul]
  linear_combination (residue w * (residue u * residue (feInv u) + 1)) * residue_mul_feInv hu

theorem feMul_square_injective {u : FieldElement} (hu : u ≠ 0) {v w : FieldElement}
    (h : feMul (feMul u u) v = feMul (feMul u u) w) : v = w := by
  have hr := congrArg residue h
  have hinv := residue_mul_feInv hu
  simp only [residue_feMul] at hr
  apply residue_injective
  linear_combination residue (feInv u) ^ 2 * hr +
    (residue w - residue v) * (residue u * residue (feInv u) + 1) * hinv

/-- The trace of `z² + z` is 0, so `z² + z = v` has a root only if the trace of `v` is 0. -/
theorem feTrace_feSquare_feAdd (y : FieldElement) : feTrace (feAdd (feSquare y) y) ≠ 1 := by
  rw [Ne, feTrace_eq_one_iff, traceBit_feAdd, traceBit_feSquare, Bool.xor_self]
  decide

theorem qsolve_sound {u w z : FieldElement} (h : qsolve u w = .solved z) :
    feAdd (feMul z z) (feMul u z) = w := by
  by_cases hu : u = 0
  · subst hu
    have hz : fePow w (2 ^ 162) = z := QuadraticRoot.solved.inj ((qsolve_zero_left w).symm.trans h)
    apply residue_injective
    rw [← hz, residue_feAdd, residue_feMul, residue_feMul, residue_zero, zero_mul, add_zero, residue_fePow, ← pow_two,
      ← pow_mul, ← pow_succ, residue_pow_card]
  by_cases hw : w = 0
  · subst hw
    cases (qsolve_zero_right hu).symm.trans h
    apply residue_injective
    rw [residue_feAdd, residue_feMul, residue_feMul, residue_zero, mul_zero, mul_zero, add_zero]
  rw [qsolve_of_ne_zero hu hw] at h
  split_ifs at h with htr
  cases h
  have htr' := (feTrace_eq_zero_or_one (solverQuotient u w)).resolve_right htr
  rw [feAdd_square_mul, feHalfTrace_solves, htr']
  exact (congrArg _ (BitVec.xor_zero)).trans (feMul_square_solverQuotient hu w)

theorem qsolve_complete {u w : FieldElement} (h : qsolve u w = .noRoot) (z : FieldElement) :
    feAdd (feMul z z) (feMul u z) ≠ w := by
  intro hz
  by_cases hu : u = 0
  · subst hu
    cases (qsolve_zero_left w).symm.trans h
  by_cases hw : w = 0
  · subst hw
    cases (qsolve_zero_right hu).symm.trans h
  rw [qsolve_of_ne_zero hu hw] at h
  split_ifs at h with htr
  have hscale : feMul (feMul z (feInv u)) u = z := by
    apply residue_injective
    rw [residue_feMul, residue_feMul]
    linear_combination residue z * residue_mul_feInv hu
  have hroot : feAdd (feSquare (feMul z (feInv u))) (feMul z (feInv u)) = solverQuotient u w := by
    refine feMul_square_injective hu ?_
    rw [← feAdd_square_mul, hscale, hz, feMul_square_solverQuotient hu]
  exact feTrace_feSquare_feAdd _ (hroot ▸ htr)

/-- Settles O52. -/
theorem solverIsSoundAndComplete : Obligations.SolverIsSoundAndComplete :=
  fun _ _ => ⟨fun _ => qsolve_sound, qsolve_complete⟩

/-- Settles O53: PFROMX writes a root of the curve equation in y. -/
theorem pfromxPointIsOnTheCurve : Obligations.PfromxPointIsOnTheCurve := by
  intro d a s t hd h ht
  cases hsolve : qsolve (readField a s) (curveRhs Config.bConst (readField a s)) with
  | solved z =>
    cases (exec_pfromx_of_solved hd hsolve).symm.trans h
    rw [readPoint_complete, readPoint_writePoint]
    exact qsolve_sound hsolve
  | noRoot =>
    cases (exec_pfromx_of_noRoot hd hsolve).symm.trans h
    cases ht

end Sys2Proof.Proofs

/-! The curve as Mathlib's Weierstrass curve over the field of residues (R1): the model's doubling and addition (R161,
R162) are those of its group of nonsingular points. -/

namespace Sys2Proof.Proofs

open Sys2Proof.Machine Sys2Proof.Safety

/-! ### Commutativity, on a curve or not -/

theorem feAdd_comm (a b : FieldElement) : feAdd a b = feAdd b a := BitVec.xor_comm a b

theorem feAdd_eq_zero_iff (a b : FieldElement) : feAdd a b = 0 ↔ a = b := BitVec.xor_eq_zero_iff

theorem feAdd_cancel_left (a b : FieldElement) : feAdd a (feAdd a b) = b := by
  rw [feAdd, feAdd, ← BitVec.xor_assoc, BitVec.xor_self, BitVec.zero_xor]

theorem residue_feAdd_mul_feInv {a b : FieldElement} (h : a ≠ b) :
    (residue a + residue b) * residue (feInv (feAdd a b)) = 1 := by
  rw [← residue_feAdd]
  exact residue_mul_feInv (mt (feAdd_eq_zero_iff a b).mp h)

theorem chordSum_comm {p q : Point} (hx : p.x ≠ q.x) : chordSum p q = chordSum q p := by
  have hinv := residue_feAdd_mul_feInv hx
  have hxeq : (chordSum p q).x = (chordSum q p).x := by
    apply residue_injective
    simp only [chordSum, feAdd_comm q.x p.x, feAdd_comm q.y p.y, residue_feAdd, residue_feMul]
    ring
  refine point_ext hxeq ?_
  have hy (p q : Point) : (chordSum p q).y = feAdd (feAdd (feMul (feMul (feAdd p.y q.y) (feInv (feAdd p.x q.x)))
    (feAdd p.x (chordSum p q).x)) (chordSum p q).x) p.y := rfl
  apply residue_injective
  rw [hy, hy, hxeq, feAdd_comm q.x p.x, feAdd_comm q.y p.y]
  simp only [residue_feAdd, residue_feMul]
  linear_combination (residue p.y + residue q.y) * hinv + residue p.y * two_eq_zero -
    (residue p.y + residue q.y) * residue (feInv (feAdd p.x q.x)) * residue q.x * two_eq_zero

theorem pointAdd_comm (p q : Point) : pointAdd p q = pointAdd q p := by
  by_cases hp : p = identity
  · rw [hp, pointAdd_identity_left, pointAdd_identity_right]
  by_cases hq : q = identity
  · rw [hq, pointAdd_identity_left, pointAdd_identity_right]
  by_cases hx : p.x = q.x
  · by_cases hneg : q.y = feAdd p.x p.y
    · rw [pointAdd_of_neg hx hneg, pointAdd_of_neg hx.symm (by rw [hneg, ← hx, feAdd_cancel_left])]
    by_cases hy : q.y = p.y
    · rw [point_ext hx hy.symm]
    · have hneg' : p.y ≠ feAdd q.x q.y := fun h => hneg (by rw [h, ← hx, feAdd_cancel_left])
      rw [pointAdd_of_uncovered hp hq hx hy hneg, pointAdd_of_uncovered hq hp hx.symm (Ne.symm hy) hneg']
  · rw [pointAdd_of_x_ne hp hq hx, pointAdd_of_x_ne hq hp (Ne.symm hx), chordSum_comm hx]

/-- Settles O55. -/
theorem additionLaws : Obligations.AdditionLaws :=
  ⟨pointAdd_comm, fun p => ⟨pointAdd_identity_right p, pointAdd_identity_left p⟩, fun _ => pointAdd_of_neg rfl rfl⟩

/-! ### The curve -/

/-- `y² + xy = x³ + x² + B` over the field of residues. -/
noncomputable def curve (bc : FieldElement) : WeierstrassCurve.Affine FieldRing where
  a₁ := 1
  a₂ := 1
  a₃ := 0
  a₄ := 0
  a₆ := residue bc

/-- The residues of a pair satisfy the curve's equation, and not both its derivatives vanish there. -/
abbrev isNonsingular (bc : FieldElement) (p : Point) : Prop := (curve bc).Nonsingular (residue p.x) (residue p.y)

theorem onCurve_iff_equation (bc : FieldElement) (p : Point) :
    onCurve bc p ↔ (curve bc).Equation (residue p.x) (residue p.y) := by
  rw [onCurve, ← residue_injective.eq_iff, WeierstrassCurve.Affine.equation_iff]
  simp only [curveRhs, residue_feAdd, residue_feMul, curve]
  ring_nf

/-- The one singular point a curve can have is the pair that stands for the identity. -/
theorem isNonsingular_iff (bc : FieldElement) (p : Point) : isNonsingular bc p ↔ onCurve bc p ∧ p ≠ identity := by
  rw [isNonsingular, WeierstrassCurve.Affine.nonsingular_iff, ← onCurve_iff_equation, ← not_and_or, Ne, eq_identity_iff,
    ← residue_eq_zero_iff p.x, ← residue_eq_zero_iff p.y]
  refine and_congr_right fun _ => not_congr ⟨fun ⟨hdx, hdy⟩ => ?_, fun ⟨hx, hy⟩ => ?_⟩
  · simp only [curve] at hdx hdy
    have hx : residue p.x = 0 := by linear_combination -hdy + (residue p.x + residue p.y) * two_eq_zero
    refine ⟨hx, ?_⟩
    rw [hx] at hdx
    linear_combination hdx
  · simp [curve, hx, hy]

theorem validPoint_iff (bc : FieldElement) (p : Point) : validPoint bc p ↔ p = identity ∨ isNonsingular bc p := by
  rw [isNonsingular_iff, validPoint]
  tauto

/-! ### The curve's formulas in characteristic 2 -/

theorem curve_negY (bc : FieldElement) (x y : FieldRing) : (curve bc).negY x y = x + y := by
  simp only [WeierstrassCurve.Affine.negY, curve]
  linear_combination -(x + y) * two_eq_zero

theorem curve_addX (bc : FieldElement) (x₁ x₂ l : FieldRing) :
    (curve bc).addX x₁ x₂ l = l * l + l + x₁ + x₂ + 1 := by
  simp only [WeierstrassCurve.Affine.addX, curve]
  linear_combination -(x₁ + x₂ + 1) * two_eq_zero

theorem curve_addY (bc : FieldElement) (x₁ x₂ y₁ l : FieldRing) :
    (curve bc).addY x₁ x₂ y₁ l = l * (x₁ + (curve bc).addX x₁ x₂ l) + (curve bc).addX x₁ x₂ l + y₁ := by
  rw [WeierstrassCurve.Affine.addY, curve_negY, WeierstrassCurve.Affine.negAddY]
  linear_combination -l * x₁ * two_eq_zero

/-- The second of two pairs of a curve is the negative of the first if it is so in the model (R163). -/
theorem residue_eq_negY_iff (bc : FieldElement) (p q : Point) :
    residue p.y = (curve bc).negY (residue q.x) (residue q.y) ↔ p.y = feAdd q.x q.y := by
  rw [curve_negY, ← residue_feAdd, residue_injective.eq_iff]

theorem sub_eq_add_of_charTwo (x y : FieldRing) : x - y = x + y := by
  linear_combination -y * two_eq_zero

/-! ### The group element a pair stands for -/

open Classical in
/-- The element of the curve's group that a pair stands for: the point itself, or zero for the identity. -/
noncomputable def groupPoint (bc : FieldElement) (p : Point) : (curve bc).Point :=
  if h : isNonsingular bc p then .some _ _ h else 0

theorem groupPoint_identity (bc : FieldElement) : groupPoint bc identity = 0 :=
  dif_neg fun h => ((isNonsingular_iff ..).mp h).2 rfl

theorem groupPoint_of_isNonsingular {bc : FieldElement} {p : Point} (h : isNonsingular bc p) :
    groupPoint bc p = .some _ _ h := dif_pos h

/-- On pairs that are the identity or on the curve, a pair is told by its group element. -/
theorem groupPoint_injective {bc : FieldElement} {p q : Point} (hp : validPoint bc p) (hq : validPoint bc q)
    (h : groupPoint bc p = groupPoint bc q) : p = q := by
  obtain rfl | hp := (validPoint_iff bc p).mp hp <;> obtain rfl | hq := (validPoint_iff bc q).mp hq
  · rfl
  · rw [groupPoint_identity, groupPoint_of_isNonsingular hq] at h
    cases h
  · rw [groupPoint_identity, groupPoint_of_isNonsingular hp] at h
    cases h
  · rw [groupPoint_of_isNonsingular hp, groupPoint_of_isNonsingular hq] at h
    obtain ⟨hx, hy⟩ := WeierstrassCurve.Affine.Point.some.inj h
    exact point_ext (residue_injective hx) (residue_injective hy)

/-- The pair is on the curve, or the identity, and stands for this group element. -/
def standsFor (bc : FieldElement) (r : Point) (g : (curve bc).Point) : Prop := validPoint bc r ∧ groupPoint bc r = g

theorem standsFor_some {bc : FieldElement} {r : Point} {x y : FieldRing} (h : (curve bc).Nonsingular x y)
    (hr : residue r.x = x ∧ residue r.y = y) : standsFor bc r (.some x y h) := by
  obtain ⟨rfl, rfl⟩ := hr
  exact ⟨(validPoint_iff bc r).mpr (.inr h), groupPoint_of_isNonsingular h⟩

section Group

variable [Fact (Irreducible fieldPoly)]

theorem residue_feInv {a : FieldElement} (ha : a ≠ 0) : residue (feInv a) = (residue a)⁻¹ :=
  eq_inv_of_mul_eq_one_right (residue_mul_feInv ha)

variable [DecidableEq FieldRing]

/-! ### Chord and tangent -/

theorem residue_chordSum {p q : Point} (hx : p.x ≠ q.x) (bc : FieldElement) :
    residue (chordSum p q).x = (curve bc).addX (residue p.x) (residue q.x)
        ((curve bc).slope (residue p.x) (residue q.x) (residue p.y) (residue q.y)) ∧
      residue (chordSum p q).y = (curve bc).addY (residue p.x) (residue q.x) (residue p.y)
        ((curve bc).slope (residue p.x) (residue q.x) (residue p.y) (residue q.y)) := by
  have hslope : (curve bc).slope (residue p.x) (residue q.x) (residue p.y) (residue q.y) =
      (residue p.y + residue q.y) * residue (feInv (feAdd p.x q.x)) := by
    rw [WeierstrassCurve.Affine.slope_of_X_ne (mt (@residue_injective _ _) hx), sub_eq_add_of_charTwo,
      sub_eq_add_of_charTwo, residue_feInv (mt (feAdd_eq_zero_iff ..).mp hx), residue_feAdd, div_eq_mul_inv]
  rw [hslope, curve_addY, curve_addX]
  simp only [chordSum, residue_feAdd, residue_feMul, residue_one, and_self]

theorem residue_tangentSum {p : Point} (hx : p.x ≠ 0) (bc : FieldElement) :
    residue (tangentSum p).x = (curve bc).addX (residue p.x) (residue p.x)
        ((curve bc).slope (residue p.x) (residue p.x) (residue p.y) (residue p.y)) ∧
      residue (tangentSum p).y = (curve bc).addY (residue p.x) (residue p.x) (residue p.y)
        ((curve bc).slope (residue p.x) (residue p.x) (residue p.y) (residue p.y)) := by
  have hinv := residue_mul_feInv hx
  have hy : residue p.y ≠ (curve bc).negY (residue p.x) (residue p.y) := by
    rw [Ne, residue_eq_negY_iff]
    exact fun h => hx ((feAdd_eq_right_iff ..).mp h.symm)
  have hslope : (curve bc).slope (residue p.x) (residue p.x) (residue p.y) (residue p.y) =
      residue p.x + residue p.y * residue (feInv p.x) := by
    have hden : residue p.y - (residue p.x + residue p.y) ≠ 0 := by
      rw [sub_add_cancel_right]
      exact neg_ne_zero.mpr (mt (residue_eq_zero_iff p.x).mp hx)
    rw [WeierstrassCurve.Affine.slope_of_Y_ne rfl hy, curve_negY, div_eq_iff hden]
    simp only [curve]
    linear_combination residue p.y * hinv + (2 * residue p.x ^ 2 + residue p.x) * two_eq_zero
  rw [hslope, curve_addY, curve_addX]
  simp only [tangentSum, residue_feAdd, residue_feMul, residue_one]
  constructor
  · linear_combination -residue p.x * two_eq_zero
  · linear_combination -(residue p.x * (residue p.x + residue p.y * residue (feInv p.x) + 1) + residue p.y) *
      two_eq_zero - residue p.y * hinv

/-! ### Addition is that of the group -/

/-- On one curve the model's addition is reached, and is that of the group. -/
theorem pointAdd_standsFor {bc : FieldElement} {p q : Point} (hp : validPoint bc p) (hq : validPoint bc q) :
    ∃ r, pointAdd p q = .point r ∧ standsFor bc r (groupPoint bc p + groupPoint bc q) := by
  obtain rfl | hp' := (validPoint_iff bc p).mp hp
  · exact ⟨q, pointAdd_identity_left q, hq, by rw [groupPoint_identity, zero_add]⟩
  obtain rfl | hq' := (validPoint_iff bc q).mp hq
  · exact ⟨p, pointAdd_identity_right p, hp, by rw [groupPoint_identity, add_zero]⟩
  obtain ⟨hpc, hpi⟩ := (isNonsingular_iff bc p).mp hp'
  obtain ⟨hqc, hqi⟩ := (isNonsingular_iff bc q).mp hq'
  rw [groupPoint_of_isNonsingular hp', groupPoint_of_isNonsingular hq']
  by_cases hx : p.x = q.x
  · by_cases hneg : p.y = feAdd q.x q.y
    · have hneg' : q.y = feAdd p.x p.y := by rw [hneg, hx, feAdd_cancel_left]
      refine ⟨identity, pointAdd_of_neg hx hneg', .inl rfl, ?_⟩
      rw [groupPoint_identity, WeierstrassCurve.Affine.Point.add_of_Y_eq (congrArg residue hx)
        ((residue_eq_negY_iff bc p q).mpr hneg)]
    · have hy := WeierstrassCurve.Affine.Y_eq_of_X_eq hp'.1 hq'.1 (congrArg residue hx)
      have hpq : p = q :=
        point_ext hx (residue_injective (hy.resolve_right (mt (residue_eq_negY_iff bc p q).mp hneg)))
      subst hpq
      have hx0 : p.x ≠ 0 := fun h => hneg ((feAdd_eq_right_iff ..).mpr h).symm
      refine ⟨tangentSum p, ?_, ?_⟩
      · rw [pointAdd_self, pointDouble_of_x_ne_zero hx0]
      · rw [WeierstrassCurve.Affine.Point.add_self_of_Y_ne (mt (residue_eq_negY_iff bc p p).mp hneg)]
        exact standsFor_some _ (residue_tangentSum hx0 bc)
  · refine ⟨chordSum p q, pointAdd_of_x_ne hpi hqi hx, ?_⟩
    rw [WeierstrassCurve.Affine.Point.add_of_X_ne (mt (@residue_injective _ _) hx)]
    exact standsFor_some _ (residue_chordSum hx bc)

end Group

/-- Settles O56, by the group of the curve's nonsingular points. -/
theorem curveIsClosedUnderAddition : Obligations.CurveIsClosedUnderAddition := by
  classical
  have : Fact (Irreducible fieldPoly) := ⟨irreducible_fieldPoly⟩
  intro bc p q hp hq
  obtain ⟨r, hr, hvalid, -⟩ := pointAdd_standsFor hp hq
  obtain ⟨d, hd, hdvalid, -⟩ := pointAdd_standsFor hp hp
  cases (pointAdd_self p).symm.trans hd
  exact ⟨hdvalid, r, hr, hvalid⟩

end Sys2Proof.Proofs

/-! Scalar multiplication (R190, R191): the loop and its bound, the multiple by a scalar from its top bit, and on a curve
the multiple in the curve's group. -/

namespace Sys2Proof.Proofs

open Sys2Proof.Machine Sys2Proof.Safety

/-! ### The loop (R190) -/

@[simp] theorem scalarMulLoop_zero (r t : Point) (k : Nat) : scalarMulLoop 0 r t k = .point r := rfl

theorem scalarMulLoop_scalar_zero (n : Nat) (r t : Point) : scalarMulLoop n r t 0 = .point r := by
  cases n <;> rfl

theorem scalarMulLoop_succ_even (n : Nat) (r t : Point) {k : Nat} (hk : k % 2 = 0) :
    scalarMulLoop (n + 1) r t k = scalarMulLoop n r (pointDouble t) (k / 2) := by
  rw [scalarMulLoop]
  split
  · next h => rw [h, Nat.zero_div, scalarMulLoop_scalar_zero]
  · rw [if_neg (by omega)]

theorem scalarMulLoop_succ_odd (n : Nat) {r t r' : Point} {k : Nat} (hk : k % 2 = 1) (hr : pointAdd r t = .point r') :
    scalarMulLoop (n + 1) r t k = scalarMulLoop n r' (pointDouble t) (k / 2) := by
  rw [scalarMulLoop, if_neg (by omega), if_pos hk, hr]

theorem scalarMulLoop_succ_odd_unreachable (n : Nat) {r t : Point} {k : Nat} (hk : k % 2 = 1)
    (hr : pointAdd r t = .unreachable) : scalarMulLoop (n + 1) r t k = .unreachable := by
  rw [scalarMulLoop, if_neg (by omega), if_pos hk, hr]

/-- A bound above the scalar's bits is enough, and any such gives the same. -/
theorem scalarMulLoop_eq_of_lt {m n k : Nat} (hm : k < 2 ^ m) (hn : k < 2 ^ n) (r t : Point) :
    scalarMulLoop m r t k = scalarMulLoop n r t k := by
  induction m generalizing n k r t with
  | zero =>
    obtain rfl : k = 0 := by simpa using hm
    rw [scalarMulLoop_scalar_zero, scalarMulLoop_scalar_zero]
  | succ m ih =>
    cases n with
    | zero =>
      obtain rfl : k = 0 := by simpa using hn
      rw [scalarMulLoop_scalar_zero, scalarMulLoop_scalar_zero]
    | succ n =>
      obtain heven | hodd := Nat.mod_two_eq_zero_or_one k
      · rw [scalarMulLoop_succ_even m r t heven, scalarMulLoop_succ_even n r t heven]
        exact ih (by omega) (by omega) _ _
      · cases hr : pointAdd r t with
        | unreachable => rw [scalarMulLoop_succ_odd_unreachable m hodd hr, scalarMulLoop_succ_odd_unreachable n hodd hr]
        | point r' =>
          rw [scalarMulLoop_succ_odd m hodd hr, scalarMulLoop_succ_odd n hodd hr]
          exact ih (by omega) (by omega) _ _

theorem scalarMul_eq_loop {n k : Nat} (hk : k < 2 ^ n) (p : Point) :
    scalarMul p k = scalarMulLoop n identity p k :=
  scalarMulLoop_eq_of_lt Nat.lt_log2_self hk identity p

theorem doubled_pointDouble (p : Point) (n : Nat) : doubled (pointDouble p) n = doubled p (n + 1) := by
  induction n with
  | zero => rfl
  | succ n ih => rw [doubled_succ, ih, doubled_succ, doubled_succ, doubled_succ]

/-- The pass of the scalar's top bit comes last. -/
theorem scalarMulLoop_topBit {n k : Nat} (hk : k < 2 ^ n) (r t : Point) :
    scalarMulLoop (n + 1) r t (2 ^ n + k) = addTo (scalarMulLoop n r t k) (doubled t n) := by
  induction n generalizing k r t with
  | zero =>
    obtain rfl : k = 0 := by simpa using hk
    cases hr : pointAdd r t with
    | unreachable => rw [scalarMulLoop_succ_odd_unreachable 0 rfl hr, scalarMulLoop_zero, addTo_point, doubled_zero, hr]
    | point r' =>
      rw [scalarMulLoop_succ_odd 0 rfl hr, scalarMulLoop_zero, scalarMulLoop_zero, addTo_point, doubled_zero, hr]
  | succ n ih =>
    have hhalf : (2 ^ (n + 1) + k) / 2 = 2 ^ n + k / 2 := by omega
    have hlow : (2 ^ (n + 1) + k) % 2 = k % 2 := by omega
    obtain heven | hodd := Nat.mod_two_eq_zero_or_one k
    · rw [scalarMulLoop_succ_even _ r t (hlow.trans heven), hhalf, ih (by omega), scalarMulLoop_succ_even n r t heven,
        doubled_pointDouble]
    · cases hr : pointAdd r t with
      | unreachable =>
        rw [scalarMulLoop_succ_odd_unreachable _ (hlow.trans hodd) hr, scalarMulLoop_succ_odd_unreachable n hodd hr,
          addTo_unreachable]
      | point r' =>
        rw [scalarMulLoop_succ_odd _ (hlow.trans hodd) hr, hhalf, ih (by omega), scalarMulLoop_succ_odd n hodd hr,
          doubled_pointDouble]

/-! ### Multiples of any pair -/

theorem scalarMul_zero (p : Point) : scalarMul p 0 = .point identity := scalarMulLoop_scalar_zero ..

theorem scalarMul_topBit {n k : Nat} (hk : k < 2 ^ n) (p : Point) :
    scalarMul p (2 ^ n + k) = addTo (scalarMul p k) (doubled p n) := by
  rw [scalarMul_eq_loop (n := n + 1) (by omega), scalarMul_eq_loop hk, scalarMulLoop_topBit hk]

theorem scalarMul_two_pow (p : Point) (n : Nat) : scalarMul p (2 ^ n) = .point (doubled p n) := by
  rw [← add_zero (2 ^ n), scalarMul_topBit (Nat.two_pow_pos n), scalarMul_zero, addTo_point, pointAdd_identity_left]

theorem scalarMul_two_mul (p : Point) (k : Nat) : scalarMul p (2 * k) = scalarMul (pointDouble p) k := by
  have hk : k < 2 ^ (k.log2 + 1) := Nat.lt_log2_self
  rw [scalarMul_eq_loop (n := k.log2 + 1 + 1) (by omega), scalarMulLoop_succ_even _ _ _ (Nat.mul_mod_right 2 k),
    Nat.mul_div_cancel_left k two_pos, scalarMul]

theorem scalarMulLoop_identity (n k : Nat) : scalarMulLoop n identity identity k = .point identity := by
  induction n generalizing k with
  | zero => rfl
  | succ n ih =>
    have hdouble : pointDouble identity = identity := pointDouble_of_x_eq_zero rfl
    obtain heven | hodd := Nat.mod_two_eq_zero_or_one k
    · rw [scalarMulLoop_succ_even n _ _ heven, hdouble, ih]
    · rw [scalarMulLoop_succ_odd n hodd (pointAdd_identity_left identity), hdouble, ih]

/-- Settles O57. -/
theorem smallMultiples : Obligations.SmallMultiples :=
  fun p => ⟨scalarMul_zero p, scalarMul_two_pow p 0, scalarMul_two_pow p 1, fun _ => scalarMulLoop_identity ..,
    scalarMul_two_mul p, fun _ _ hk => scalarMul_topBit hk p⟩

/-! ### Multiples on a curve -/

theorem eq_of_standsFor {bc : FieldElement} {p q : Point} {g : (curve bc).Point} (hp : standsFor bc p g)
    (hq : standsFor bc q g) : p = q :=
  groupPoint_injective hp.1 hq.1 (hp.2.trans hq.2.symm)

section Group

variable [Fact (Irreducible fieldPoly)] [DecidableEq FieldRing]

theorem pointDouble_standsFor {bc : FieldElement} {p : Point} (hp : validPoint bc p) :
    standsFor bc (pointDouble p) (groupPoint bc p + groupPoint bc p) := by
  obtain ⟨d, hd, hstands⟩ := pointAdd_standsFor hp hp
  cases (pointAdd_self p).symm.trans hd
  exact hstands

theorem scalarMulLoop_standsFor {bc : FieldElement} {n k : Nat} (hk : k < 2 ^ n) {r t : Point} (hr : validPoint bc r)
    (ht : validPoint bc t) :
    ∃ q, scalarMulLoop n r t k = .point q ∧ standsFor bc q (groupPoint bc r + k • groupPoint bc t) := by
  induction n generalizing k r t with
  | zero =>
    obtain rfl : k = 0 := by simpa using hk
    exact ⟨r, rfl, hr, by rw [zero_nsmul, add_zero]⟩
  | succ n ih =>
    obtain ⟨hdouble, hgroup⟩ := pointDouble_standsFor ht
    have hhalf : k / 2 < 2 ^ n := by omega
    obtain heven | hodd := Nat.mod_two_eq_zero_or_one k
    · obtain ⟨q, hq, hvalid, hstands⟩ := ih hhalf hr hdouble
      refine ⟨q, (scalarMulLoop_succ_even n r t heven).trans hq, hvalid, ?_⟩
      rw [hstands, hgroup, ← two_smul Nat, smul_smul, Nat.div_mul_cancel (Nat.dvd_of_mod_eq_zero heven)]
    · obtain ⟨r', hr', hvalid', hsum⟩ := pointAdd_standsFor hr ht
      obtain ⟨q, hq, hvalid, hstands⟩ := ih hhalf hvalid' hdouble
      refine ⟨q, (scalarMulLoop_succ_odd n hodd hr').trans hq, hvalid, ?_⟩
      have hsplit : k = 1 + k / 2 * 2 := by omega
      conv_rhs => rw [hsplit]
      rw [hstands, hgroup, hsum, ← two_smul Nat, smul_smul, add_smul, one_smul, add_assoc]

/-- On a curve the model's multiple is reached, and is that of the group. -/
theorem scalarMul_standsFor {bc : FieldElement} {p : Point} (hp : validPoint bc p) (k : Nat) :
    ∃ q, scalarMul p k = .point q ∧ standsFor bc q (k • groupPoint bc p) := by
  obtain ⟨q, hq, hvalid, hstands⟩ := scalarMulLoop_standsFor (bc := bc) Nat.lt_log2_self (r := identity) (.inl rfl) hp
  exact ⟨q, hq, hvalid, by rw [hstands, groupPoint_identity, zero_add]⟩

theorem pointAdd_assoc {bc : FieldElement} {p q r : Point} (hp : validPoint bc p) (hq : validPoint bc q)
    (hr : validPoint bc r) :
    ∃ pq qr, pointAdd p q = .point pq ∧ pointAdd q r = .point qr ∧ pointAdd pq r = pointAdd p qr := by
  obtain ⟨pq, hpq, hpqvalid, hpqsum⟩ := pointAdd_standsFor hp hq
  obtain ⟨qr, hqr, hqrvalid, hqrsum⟩ := pointAdd_standsFor hq hr
  obtain ⟨u, hu, hustands⟩ := pointAdd_standsFor hpqvalid hr
  obtain ⟨v, hv, hvstands⟩ := pointAdd_standsFor hp hqrvalid
  rw [hpqsum, add_assoc] at hustands
  rw [hqrsum] at hvstands
  exact ⟨pq, qr, hpq, hqr, by rw [hu, hv, eq_of_standsFor hustands hvstands]⟩

theorem scalarMul_add {bc : FieldElement} {p : Point} (hp : validPoint bc p) (j k : Nat) :
    ∃ pj pk, scalarMul p j = .point pj ∧ scalarMul p k = .point pk ∧ scalarMul p (j + k) = pointAdd pj pk := by
  obtain ⟨pj, hj, hjvalid, hjgroup⟩ := scalarMul_standsFor hp j
  obtain ⟨pk, hk, hkvalid, hkgroup⟩ := scalarMul_standsFor hp k
  obtain ⟨u, hu, hustands⟩ := scalarMul_standsFor hp (j + k)
  obtain ⟨v, hv, hvstands⟩ := pointAdd_standsFor hjvalid hkvalid
  rw [hjgroup, hkgroup, ← add_smul] at hvstands
  exact ⟨pj, pk, hj, hk, by rw [hu, hv, eq_of_standsFor hustands hvstands]⟩

end Group

theorem scalarMul_reached {bc : FieldElement} {p : Point} (hp : validPoint bc p) (k : Nat) :
    ∃ q, scalarMul p k = .point q ∧ validPoint bc q := by
  classical
  have : Fact (Irreducible fieldPoly) := ⟨irreducible_fieldPoly⟩
  obtain ⟨q, hq, hvalid, -⟩ := scalarMul_standsFor hp k
  exact ⟨q, hq, hvalid⟩

/-- Settles O58. -/
theorem multiplesStayOnTheCurve : Obligations.MultiplesStayOnTheCurve := by
  refine ⟨fun bc p k hp => scalarMul_reached hp k, fun bc d a b s hd ha hp => ?_⟩
  obtain ⟨q, hq, hvalid⟩ := scalarMul_reached hp (readScalar b s)
  have hexec := exec_smul_of_even hd ha b s
  rw [hq, deliverSum_point] at hexec
  refine ⟨_, hexec, rfl, ⟨rfl, rfl, rfl⟩, ?_⟩
  rwa [readPoint_complete, readPoint_writePoint]

/-- Settles O60: the laws are those of the curve's group. -/
theorem curveAdditionAssociates : Obligations.CurveAdditionAssociates := by
  classical
  have : Fact (Irreducible fieldPoly) := ⟨irreducible_fieldPoly⟩
  exact fun bc p q r hp hq hr => ⟨pointAdd_assoc hp hq hr, scalarMul_add hp⟩

end Sys2Proof.Proofs
